-- ==== Sys2Proof/Word.lean ====
section
/-! DEFINITION. The word of a frame, limb vectors, and the two conversions between a limb vector and its value (00_scope.md R9, 10_state.md R19, 20_memory.md R32). -/

namespace Sys2Proof

/-- A frame word: one 64-bit quantity (20_memory.md R34; `W` = 64, 00_scope.md R6). -/
abbrev Word := BitVec 64

/-- "Limb: an unsigned machine word (64 bits)" (10_state.md R19). -/
abbrev Limb := Word

/-- A byte of the little-endian byte image of a frame (20_memory.md R34). -/
abbrev Byte := BitVec 8

/-- `val(a) = a[0] + a[1]*2^64 + ... + a[N-1]*2^(64(N-1))`, limbs least-significant first (R9, R32). -/
def val : List Limb → Nat
  | [] => 0
  | a :: as => a.toNat + 2 ^ 64 * val as

/-- `vec_N(v)`: the `N`-limb vector with value `v`, for `0 <= v < 2^(64N)` (R9).
For a larger `v` it is the vector of `v mod 2^(64N)`; no rule uses it there without saying so. -/
def vec : (n v : Nat) → List Limb
  | 0, _ => []
  | n + 1, v => BitVec.ofNat 64 v :: vec n (v / 2 ^ 64)

end Sys2Proof
end

