-- ==== Sys2Proof/Config.lean ====
section
/-! DEFINITION. The parameters of CORE (00_scope.md R6, 10_state.md R18): the fixed constants, and the OPEN
parameters as constants without a body, so that no proof can see their values. -/

namespace Sys2Proof.Config

/-- The modulus of F127 (R6, R18). -/
def P127 : Nat := 2 ^ 127 - 1

/-- The NIST P-384 prime, the spec's default for `P384` (42_f384.md R99, "from general knowledge").
The model does not assume it; the tests use it (log entry 5). -/
def P384_DEFAULT : Nat := 2 ^ 384 - 2 ^ 128 - 2 ^ 96 + 2 ^ 32 - 1

/-- What R6 and R85 ask of `P384`: an odd prime between 2^383 and 2^384. -/
structure Modulus384 where
  value : Nat
  prime : value.Prime
  odd : value % 2 = 1
  lower : 2 ^ 383 < value
  upper : value < 2 ^ 384

/-- OPEN parameter `P384` as the build fixes it; no body. -/
opaque modulus384? : Option Modulus384

/-- `x^(e^k)` modulo `m`, reduced after each of the `k` powers. -/
def powIter (m e : Nat) : (k x : Nat) → Nat
  | 0, x => x
  | k + 1, x => powIter m e k (x ^ e % m)

theorem powIter_cast (m e k x : Nat) : (powIter m e k x : ZMod m) = (x : ZMod m) ^ e ^ k := by
  induction k generalizing x with
  | zero => simp [powIter]
  | succ k ih => rw [powIter, ih, ZMod.natCast_mod, Nat.cast_pow, ← pow_mul, ← pow_succ']

/-- A prime of the range of R85 whose predecessor has no prime factor but 2 and 3.
It only shows that `Modulus384` has a value, so that `P384` below is total; nothing rests on it (log entry 5). -/
def smooth384 : Nat := 3 ^ 56 * 2 ^ 295 + 1

set_option exponentiation.threshold 300 in
theorem smooth384_pow (i j : Nat) :
    (7 : ZMod smooth384) ^ (3 ^ i * 2 ^ j) = (powIter smooth384 2 j (powIter smooth384 3 i 7) : Nat) := by
  rw [powIter_cast, powIter_cast, pow_mul]; rfl

set_option exponentiation.threshold 300 in
/-- Lucas' test with the base 7. -/
theorem smooth384_prime : smooth384.Prime := by
  have one : ((1 : Nat) : ZMod smooth384) = 1 := Nat.cast_one
  refine lucas_primality smooth384 7 ?_ fun q hq hd => ?_
  · rw [show smooth384 - 1 = 3 ^ 56 * 2 ^ 295 from rfl, smooth384_pow, ← one, ZMod.natCast_eq_natCast_iff']
    decide +kernel
  · obtain h | h : q = 3 ∨ q = 2 := by
      obtain h | h := hq.dvd_mul.mp (show q ∣ 3 ^ 56 * 2 ^ 295 from hd)
      · exact .inl ((Nat.prime_dvd_prime_iff_eq hq Nat.prime_three).mp (hq.dvd_of_dvd_pow h))
      · exact .inr ((Nat.prime_dvd_prime_iff_eq hq Nat.prime_two).mp (hq.dvd_of_dvd_pow h))
    · subst h
      rw [show (smooth384 - 1) / 3 = 3 ^ 55 * 2 ^ 295 by decide +kernel, smooth384_pow, ← one, Ne,
        ZMod.natCast_eq_natCast_iff']
      decide +kernel
    · subst h
      rw [show (smooth384 - 1) / 2 = 3 ^ 56 * 2 ^ 294 by decide +kernel, smooth384_pow, ← one, Ne,
        ZMod.natCast_eq_natCast_iff']
      decide +kernel

/-- The 384-bit modulus of the build: any odd prime of the range of R85. -/
def P384 : Modulus384 :=
  modulus384?.getD ⟨smooth384, smooth384_prime, by decide +kernel, by decide +kernel, by decide +kernel⟩

/-- OPEN parameter `HAS_MAC`, one bit: whether the accelerated datapath exists (R6, 46_system.md R142); no body. -/
opaque HAS_MAC : Bool

/-- OPEN parameter `LAT(op, impl)` (70_reset_and_hazards.md R172): the latency of the command with this opcode on the
path `IMPL_SEL` selects.
It has no other argument, which is how R7 carries the constant-time requirement; no body. -/
opaque LAT : BitVec 8 → Bool → Nat

/-- The members of the ladder's base field `LF` (45_ladder.md R124). -/
structure LadderParams where
  /-- `QL`, the modulus. -/
  ql : Nat
  /-- `NL`, the number of limbs of an element. -/
  nl : Nat
  /-- `NRL`, the working domain, a set of `NL`-limb values. -/
  nrl : List Limb → Prop
  /-- The curve constant of R126. -/
  a24 : Nat
  add : List Limb → List Limb → List Limb
  sub : List Limb → List Limb → List Limb
  mul : List Limb → List Limb → List Limb
  sqr : List Limb → List Limb
  mulA24 : List Limb → List Limb

/-- The contract of R124, row by row: `QL` an odd prime below `2^(64*NL)`, every residue represented in `NRL`, every
member total on `NL`-limb bit patterns, and on `NRL` closed and congruent to the field operation. -/
structure LadderParams.Contract (F : LadderParams) : Prop where
  ql_prime : F.ql.Prime
  ql_odd : F.ql % 2 = 1
  ql_lt : F.ql < 2 ^ (64 * F.nl)
  nl_pos : 1 ≤ F.nl
  nrl_length : ∀ v, F.nrl v → v.length = F.nl
  nrl_residue : ∀ r, r < F.ql → ∃ v, F.nrl v ∧ val v % F.ql = r
  nrl_zero : F.nrl (vec F.nl 0)
  nrl_one : F.nrl (vec F.nl 1)
  a24_lt : F.a24 < F.ql
  add_length : ∀ a b, a.length = F.nl → b.length = F.nl → (F.add a b).length = F.nl
  sub_length : ∀ a b, a.length = F.nl → b.length = F.nl → (F.sub a b).length = F.nl
  mul_length : ∀ a b, a.length = F.nl → b.length = F.nl → (F.mul a b).length = F.nl
  sqr_length : ∀ a, a.length = F.nl → (F.sqr a).length = F.nl
  mulA24_length : ∀ a, a.length = F.nl → (F.mulA24 a).length = F.nl
  add_nrl : ∀ a b, F.nrl a → F.nrl b → F.nrl (F.add a b)
  sub_nrl : ∀ a b, F.nrl a → F.nrl b → F.nrl (F.sub a b)
  mul_nrl : ∀ a b, F.nrl a → F.nrl b → F.nrl (F.mul a b)
  sqr_nrl : ∀ a, F.nrl a → F.nrl (F.sqr a)
  mulA24_nrl : ∀ a, F.nrl a → F.nrl (F.mulA24 a)
  add_mod : ∀ a b, F.nrl a → F.nrl b → val (F.add a b) % F.ql = (val a + val b) % F.ql
  sub_mod : ∀ a b, F.nrl a → F.nrl b → (val (F.sub a b) + val b) % F.ql = val a % F.ql
  mul_mod : ∀ a b, F.nrl a → F.nrl b → val (F.mul a b) % F.ql = (val a * val b) % F.ql
  sqr_mod : ∀ a, F.nrl a → val (F.sqr a) % F.ql = (val a * val a) % F.ql
  mulA24_mod : ∀ a, F.nrl a → val (F.mulA24 a) % F.ql = (F.a24 * val a) % F.ql

/-- The record `LF` with its contract. -/
structure LadderField extends LadderParams where
  contract : toLadderParams.Contract

/-- A small record that meets the contract (the integers modulo 3, on one limb).
It only shows that the contract can be met, so that `LF` below is total; nothing rests on it (log entry 6). -/
def smallField : LadderParams where
  ql := 3
  nl := 1
  nrl v := v.length = 1
  a24 := 0
  add a b := vec 1 ((val a + val b) % 3)
  sub a b := vec 1 ((val a + 2 * val b) % 3)
  mul a b := vec 1 ((val a * val b) % 3)
  sqr a := vec 1 ((val a * val a) % 3)
  mulA24 _ := vec 1 0

theorem smallField_val (x : Nat) : val (vec 1 (x % 3)) = x % 3 := by
  simp only [vec, val, BitVec.toNat_ofNat]; omega

theorem smallField_contract : smallField.Contract where
  ql_prime := Nat.prime_three
  ql_odd := rfl
  ql_lt := by decide
  nl_pos := Nat.le_refl 1
  nrl_length _ h := h
  nrl_residue r h := ⟨vec 1 (r % 3), rfl, by
    change r < 3 at h; change val (vec 1 (r % 3)) % 3 = r; rw [smallField_val]; omega⟩
  nrl_zero := rfl
  nrl_one := rfl
  a24_lt := by decide
  add_length _ _ _ _ := rfl
  sub_length _ _ _ _ := rfl
  mul_length _ _ _ _ := rfl
  sqr_length _ _ := rfl
  mulA24_length _ _ := rfl
  add_nrl _ _ _ _ := rfl
  sub_nrl _ _ _ _ := rfl
  mul_nrl _ _ _ _ := rfl
  sqr_nrl _ _ := rfl
  mulA24_nrl _ _ := rfl
  add_mod a b _ _ := by change val (vec 1 (_ % 3)) % 3 = _ % 3; rw [smallField_val]; omega
  sub_mod a b _ _ := by
    change (val (vec 1 ((val a + 2 * val b) % 3)) + val b) % 3 = val a % 3; rw [smallField_val]; omega
  mul_mod a b _ _ := by change val (vec 1 (_ % 3)) % 3 = _ % 3; rw [smallField_val]; omega
  sqr_mod a _ := by change val (vec 1 (_ % 3)) % 3 = _ % 3; rw [smallField_val]; omega
  mulA24_mod a _ := by change val (vec 1 (0 % 3)) % 3 = (0 * val a) % 3; rw [smallField_val]; omega

/-- OPEN parameter `LF` as the build fixes it; no body. -/
opaque ladderField? : Option LadderField

/-- The ladder field of the build: any record under the contract of R124. -/
def LF : LadderField := ladderField?.getD ⟨smallField, smallField_contract⟩

end Sys2Proof.Config
end

