-- ==== Sys2Proof/Syntax.lean ====
section
/-! DEFINITION. Command frames (30_encoding.md R41, R56), the value types of operand slots (10_state.md R19 to R25), and
`Instr`, one constructor per row of the opcode table (R47). -/

namespace Sys2Proof

/-- A command frame as a model takes it: the command word `CW` and the list of operand words (R56). -/
structure CommandFrame where
  cw : Word
  payload : List Word
  deriving DecidableEq, Repr

/-- "QuadraticFieldElement": `a0 + a1*i` (R22). -/
structure Fp2 where
  a0 : List Limb
  a1 : List Limb
  deriving DecidableEq, Repr

/-- "ExtendedEdwardsPoint": `(X, Y, Z, Ta, Tb)` (R23). -/
structure EdPoint where
  X : Fp2
  Y : Fp2
  Z : Fp2
  Ta : Fp2
  Tb : Fp2
  deriving DecidableEq, Repr

/-- "PrecomputedTableEntry" (R24). -/
structure EdEntry where
  sumYX : Fp2
  diffYX : Fp2
  doubledZ : Fp2
  doubledTProduct : Fp2
  deriving DecidableEq, Repr

/-- "MontgomeryLadderState": `x1` fixed, `(x2, z2)` current, `(x3, z3)` next (R25). -/
structure MlState where
  x1 : List Limb
  x2 : List Limb
  z2 : List Limb
  x3 : List Limb
  z3 : List Limb
  deriving DecidableEq, Repr

/-- The 36 commands, as opcodes (R47). -/
inductive Op where
  | sysSelimpl
  | lv2Add | lv2Sub | lv2Csel | lv2Cswap
  | lv6Add | lv6Sub | lv6Csel | lv6Cswap
  | f127Add | f127Sub | f127Neg | f127Mul | f127Sqr | f127Csel | f127Canon
  | f384Add | f384Sub | f384Neg | f384Mul | f384Sqr | f384Csel | f384Canon
  | fp2Add | fp2Sub | fp2Neg | fp2Mul | fp2Sqr | fp2Csel | fp2Canon
  | edDbl | edAdd | edMadd
  | mlStep | mlDbl | mlDadd
  deriving DecidableEq, Repr

/-- A command with its operands by value, in slot order (R47).
The operand words of a frame of the wrong length are kept too: the last slot takes whatever is left, and
`Instr.wellFormed` says whether every slot has its width (log entry 9). -/
inductive Instr where
  /-- `surplus`: the words a frame of this command must not have (`INW` = 0). -/
  | sysSelimpl (surplus : List Word)
  | lv2Add (a b : List Limb)
  | lv2Sub (a b : List Limb)
  | lv2Csel (flag : Bool) (a b : List Limb)
  | lv2Cswap (flag : Bool) (a b : List Limb)
  | lv6Add (a b : List Limb)
  | lv6Sub (a b : List Limb)
  | lv6Csel (flag : Bool) (a b : List Limb)
  | lv6Cswap (flag : Bool) (a b : List Limb)
  | f127Add (a b : List Limb)
  | f127Sub (a b : List Limb)
  | f127Neg (a : List Limb)
  | f127Mul (a b : List Limb)
  | f127Sqr (a : List Limb)
  | f127Csel (flag : Bool) (a b : List Limb)
  | f127Canon (a : List Limb)
  | f384Add (a b : List Limb)
  | f384Sub (a b : List Limb)
  | f384Neg (a : List Limb)
  | f384Mul (a b : List Limb)
  | f384Sqr (a : List Limb)
  | f384Csel (flag : Bool) (a b : List Limb)
  | f384Canon (a : List Limb)
  | fp2Add (a b : Fp2)
  | fp2Sub (a b : Fp2)
  | fp2Neg (a : Fp2)
  | fp2Mul (a b : Fp2)
  | fp2Sqr (a : Fp2)
  | fp2Csel (flag : Bool) (a b : Fp2)
  | fp2Canon (a : Fp2)
  | edDbl (P : EdPoint)
  | edAdd (P : EdPoint) (Q : EdEntry)
  | edMadd (P : EdPoint) (Q : EdEntry)
  | mlStep (flag : Bool) (S : MlState)
  | mlDbl (S : MlState)
  | mlDadd (S : MlState) (fx : List Limb)
  deriving DecidableEq, Repr

end Sys2Proof
end

