-- ==== Sys2Proof/Machine/Operands.lean ====
section
/-! DEFINITION. Operand slots: their widths in words (30_encoding.md R46), their order in a payload (20_memory.md R32,
R33; 30_encoding.md R44), and the flag operand as a mask with the selection it drives (R43, 40_limbvector.md R57). -/

namespace Sys2Proof.Machine

/-- The ladder field of this build (45_ladder.md R124). -/
def LF : Config.LadderParams := Config.LF.toLadderParams

/-- The 384-bit modulus of this build (42_f384.md R85). -/
def P384 : Nat := Config.P384.value

/-! ### Widths (R46) -/

/-- A slot of `n` words. -/
def isLimbs (n : Nat) (a : List Limb) : Bool := a.length == n

/-- An `FP2` slot: two F127 components of 2 words each. -/
def isFp2 (a : Fp2) : Bool := isLimbs 2 a.a0 && isLimbs 2 a.a1

/-- An `EDPT` slot: five `FP2` values. -/
def isEdPoint (P : EdPoint) : Bool := isFp2 P.X && isFp2 P.Y && isFp2 P.Z && isFp2 P.Ta && isFp2 P.Tb

/-- An `EDTAB` slot: four `FP2` values. -/
def isEdEntry (Q : EdEntry) : Bool :=
  isFp2 Q.sumYX && isFp2 Q.diffYX && isFp2 Q.doubledZ && isFp2 Q.doubledTProduct

/-- An `MLST` slot: five `LFE` values of `NL` words each. -/
def isMlState (S : MlState) : Bool :=
  isLimbs LF.nl S.x1 && isLimbs LF.nl S.x2 && isLimbs LF.nl S.z2 && isLimbs LF.nl S.x3 && isLimbs LF.nl S.z3

/-! ### Words of a value, in component order (R33) -/

def fp2Words (a : Fp2) : List Word := a.a0 ++ a.a1

def edPointWords (P : EdPoint) : List Word :=
  fp2Words P.X ++ fp2Words P.Y ++ fp2Words P.Z ++ fp2Words P.Ta ++ fp2Words P.Tb

def edEntryWords (Q : EdEntry) : List Word :=
  fp2Words Q.sumYX ++ fp2Words Q.diffYX ++ fp2Words Q.doubledZ ++ fp2Words Q.doubledTProduct

def mlStateWords (S : MlState) : List Word := S.x1 ++ S.x2 ++ S.z2 ++ S.x3 ++ S.z3

/-! ### A value of a run of words (R44): each part takes its width, the last takes what is left -/

def fp2OfWords (ws : List Word) : Fp2 := ⟨ws.take 2, ws.drop 2⟩

def edPointOfWords (ws : List Word) : EdPoint :=
  ⟨fp2OfWords (ws.take 4), fp2OfWords ((ws.drop 4).take 4), fp2OfWords ((ws.drop 8).take 4),
    fp2OfWords ((ws.drop 12).take 4), fp2OfWords (ws.drop 16)⟩

def edEntryOfWords (ws : List Word) : EdEntry :=
  ⟨fp2OfWords (ws.take 4), fp2OfWords ((ws.drop 4).take 4), fp2OfWords ((ws.drop 8).take 4),
    fp2OfWords (ws.drop 12)⟩

def mlStateOfWords (ws : List Word) : MlState :=
  ⟨ws.take LF.nl, (ws.drop LF.nl).take LF.nl, (ws.drop (2 * LF.nl)).take LF.nl, (ws.drop (3 * LF.nl)).take LF.nl,
    ws.drop (4 * LF.nl)⟩

/-! ### Selection (R57) -/

/-- `MASK(f) = (0 - f) mod 2^64`: all zeros for 0, all ones for 1. -/
def mask (f : Bool) : Limb := 0 - BitVec.ofNat 64 f.toNat

/-- `SEL_N(f, a, b)`: limb by limb `(a[k] AND MASK(f)) OR (b[k] AND NOT MASK(f))`. -/
def selN (f : Bool) (a b : List Limb) : List Limb :=
  List.zipWith (fun x y => (x &&& mask f) ||| (y &&& ~~~ mask f)) a b

end Sys2Proof.Machine
end

