-- ==== Sys2Proof/WellFormed.lean ====
section
/-! DEFINITION. When a command is well-formed: every operand slot has the width of its type (30_encoding.md R46, R47).
A command read from a frame is well-formed exactly when the frame carries `INW(op)` operand words. -/

namespace Sys2Proof

open Machine

def Instr.wellFormed : Instr → Bool
  | .sysSelimpl surplus => isLimbs 0 surplus
  | .lv2Add a b => isLimbs 2 a && isLimbs 2 b
  | .lv2Sub a b => isLimbs 2 a && isLimbs 2 b
  | .lv2Csel _ a b => isLimbs 2 a && isLimbs 2 b
  | .lv2Cswap _ a b => isLimbs 2 a && isLimbs 2 b
  | .lv6Add a b => isLimbs 6 a && isLimbs 6 b
  | .lv6Sub a b => isLimbs 6 a && isLimbs 6 b
  | .lv6Csel _ a b => isLimbs 6 a && isLimbs 6 b
  | .lv6Cswap _ a b => isLimbs 6 a && isLimbs 6 b
  | .f127Add a b => isLimbs 2 a && isLimbs 2 b
  | .f127Sub a b => isLimbs 2 a && isLimbs 2 b
  | .f127Neg a => isLimbs 2 a
  | .f127Mul a b => isLimbs 2 a && isLimbs 2 b
  | .f127Sqr a => isLimbs 2 a
  | .f127Csel _ a b => isLimbs 2 a && isLimbs 2 b
  | .f127Canon a => isLimbs 2 a
  | .f384Add a b => isLimbs 6 a && isLimbs 6 b
  | .f384Sub a b => isLimbs 6 a && isLimbs 6 b
  | .f384Neg a => isLimbs 6 a
  | .f384Mul a b => isLimbs 6 a && isLimbs 6 b
  | .f384Sqr a => isLimbs 6 a
  | .f384Csel _ a b => isLimbs 6 a && isLimbs 6 b
  | .f384Canon a => isLimbs 6 a
  | .fp2Add a b => isFp2 a && isFp2 b
  | .fp2Sub a b => isFp2 a && isFp2 b
  | .fp2Neg a => isFp2 a
  | .fp2Mul a b => isFp2 a && isFp2 b
  | .fp2Sqr a => isFp2 a
  | .fp2Csel _ a b => isFp2 a && isFp2 b
  | .fp2Canon a => isFp2 a
  | .edDbl P => isEdPoint P
  | .edAdd P Q => isEdPoint P && isEdEntry Q
  | .edMadd P Q => isEdPoint P && isEdEntry Q
  | .mlStep _ S => isMlState S
  | .mlDbl S => isMlState S
  | .mlDadd S fx => isMlState S && isLimbs LF.nl fx

/-- Every operand slot of the command has its width. -/
abbrev Instr.WellFormed (i : Instr) : Prop := i.wellFormed = true

end Sys2Proof
end

