-- ==== Sys2Proof/Decode.lean ====
section
/-! DEFINITION. The command word's fields, the opcode map, the decoder and the encoder (30_encoding.md R42 to R51), and
the little-endian byte image of a list of frame words (20_memory.md R34). -/

namespace Sys2Proof

open Machine

/-! ### The opcode map (R47, R48) -/

/-- The column `OPC` of R47. -/
def Op.opcode : Op → BitVec 8
  | .sysSelimpl => 0x01
  | .lv2Add => 0x10
  | .lv2Sub => 0x11
  | .lv2Csel => 0x12
  | .lv2Cswap => 0x13
  | .lv6Add => 0x20
  | .lv6Sub => 0x21
  | .lv6Csel => 0x22
  | .lv6Cswap => 0x23
  | .f127Add => 0x30
  | .f127Sub => 0x31
  | .f127Neg => 0x32
  | .f127Mul => 0x33
  | .f127Sqr => 0x34
  | .f127Csel => 0x35
  | .f127Canon => 0x36
  | .f384Add => 0x40
  | .f384Sub => 0x41
  | .f384Neg => 0x42
  | .f384Mul => 0x43
  | .f384Sqr => 0x44
  | .f384Csel => 0x45
  | .f384Canon => 0x46
  | .fp2Add => 0x50
  | .fp2Sub => 0x51
  | .fp2Neg => 0x52
  | .fp2Mul => 0x53
  | .fp2Sqr => 0x54
  | .fp2Csel => 0x55
  | .fp2Canon => 0x56
  | .edDbl => 0x60
  | .edAdd => 0x61
  | .edMadd => 0x62
  | .mlStep => 0x70
  | .mlDbl => 0x71
  | .mlDadd => 0x72

/-- The 36 opcodes in the table's order. -/
def Op.all : List Op :=
  [.sysSelimpl, .lv2Add, .lv2Sub, .lv2Csel, .lv2Cswap, .lv6Add, .lv6Sub, .lv6Csel, .lv6Cswap,
    .f127Add, .f127Sub, .f127Neg, .f127Mul, .f127Sqr, .f127Csel, .f127Canon] ++
  [.f384Add, .f384Sub, .f384Neg, .f384Mul, .f384Sqr, .f384Csel, .f384Canon,
    .fp2Add, .fp2Sub, .fp2Neg, .fp2Mul, .fp2Sqr, .fp2Csel, .fp2Canon,
    .edDbl, .edAdd, .edMadd, .mlStep, .mlDbl, .mlDadd]

/-- The opcode an `OPC` value stands for, if it is one of the 36 (R49 step 1). -/
def Op.ofOpcode (b : BitVec 8) : Option Op := Op.all.find? fun op => op.opcode == b

/-- The column `FLAG` of R47. -/
def Op.takesFlag : Op → Bool
  | .lv2Csel | .lv2Cswap | .lv6Csel | .lv6Cswap | .f127Csel | .f384Csel | .fp2Csel | .mlStep => true
  | .sysSelimpl | .lv2Add | .lv2Sub | .lv6Add | .lv6Sub
  | .f127Add | .f127Sub | .f127Neg | .f127Mul | .f127Sqr | .f127Canon
  | .f384Add | .f384Sub | .f384Neg | .f384Mul | .f384Sqr | .f384Canon
  | .fp2Add | .fp2Sub | .fp2Neg | .fp2Mul | .fp2Sqr | .fp2Canon
  | .edDbl | .edAdd | .edMadd | .mlDbl | .mlDadd => false

/-- The column `INW` of R47: the number of operand words. -/
def Op.inw : Op → Nat
  | .sysSelimpl => 0
  | .lv2Add | .lv2Sub | .lv2Csel | .lv2Cswap => 4
  | .lv6Add | .lv6Sub | .lv6Csel | .lv6Cswap => 12
  | .f127Add | .f127Sub | .f127Mul | .f127Csel => 4
  | .f127Neg | .f127Sqr | .f127Canon => 2
  | .f384Add | .f384Sub | .f384Mul | .f384Csel => 12
  | .f384Neg | .f384Sqr | .f384Canon => 6
  | .fp2Add | .fp2Sub | .fp2Mul | .fp2Csel => 8
  | .fp2Neg | .fp2Sqr | .fp2Canon => 4
  | .edDbl => 20
  | .edAdd | .edMadd => 36
  | .mlStep | .mlDbl => 5 * LF.nl
  | .mlDadd => 6 * LF.nl

/-- The column `OUTW` of R47: the number of result words of an `OK` response. -/
def Op.outw : Op → Nat
  | .sysSelimpl => 0
  | .lv2Add | .lv2Sub | .lv2Csel => 2
  | .lv2Cswap => 4
  | .lv6Add | .lv6Sub | .lv6Csel => 6
  | .lv6Cswap => 12
  | .f127Add | .f127Sub | .f127Neg | .f127Mul | .f127Sqr | .f127Csel | .f127Canon => 2
  | .f384Add | .f384Sub | .f384Neg | .f384Mul | .f384Sqr | .f384Csel | .f384Canon => 6
  | .fp2Add | .fp2Sub | .fp2Neg | .fp2Mul | .fp2Sqr | .fp2Csel | .fp2Canon => 4
  | .edDbl | .edAdd | .edMadd => 20
  | .mlStep | .mlDbl | .mlDadd => 5 * LF.nl

/-- The column Mnemonic of R47. -/
def Op.mnemonic : Op → String
  | .sysSelimpl => "sys.selimpl"
  | .lv2Add => "lv2.add"
  | .lv2Sub => "lv2.sub"
  | .lv2Csel => "lv2.csel"
  | .lv2Cswap => "lv2.cswap"
  | .lv6Add => "lv6.add"
  | .lv6Sub => "lv6.sub"
  | .lv6Csel => "lv6.csel"
  | .lv6Cswap => "lv6.cswap"
  | .f127Add => "f127.add"
  | .f127Sub => "f127.sub"
  | .f127Neg => "f127.neg"
  | .f127Mul => "f127.mul"
  | .f127Sqr => "f127.sqr"
  | .f127Csel => "f127.csel"
  | .f127Canon => "f127.canon"
  | .f384Add => "f384.add"
  | .f384Sub => "f384.sub"
  | .f384Neg => "f384.neg"
  | .f384Mul => "f384.mul"
  | .f384Sqr => "f384.sqr"
  | .f384Csel => "f384.csel"
  | .f384Canon => "f384.canon"
  | .fp2Add => "fp2.add"
  | .fp2Sub => "fp2.sub"
  | .fp2Neg => "fp2.neg"
  | .fp2Mul => "fp2.mul"
  | .fp2Sqr => "fp2.sqr"
  | .fp2Csel => "fp2.csel"
  | .fp2Canon => "fp2.canon"
  | .edDbl => "ed.dbl"
  | .edAdd => "ed.add"
  | .edMadd => "ed.madd"
  | .mlStep => "ml.step"
  | .mlDbl => "ml.dbl"
  | .mlDadd => "ml.dadd"

/-! ### The command word (R42) -/

/-- `CW.OPC`, bits 7:0. -/
def opcField (w : Word) : BitVec 8 := w.extractLsb' 0 8

/-- `CW.FLAG`, bit 8. -/
def flagField (w : Word) : Bool := w.getLsbD 8

/-- `CW[63:9]`, reserved. -/
def reservedField (w : Word) : BitVec 55 := w.extractLsb' 9 55

/-- `CW = OPC + FLAG * 2^8`. -/
def commandWord (op : Op) (flag : Bool) : Word := BitVec.ofNat 64 (op.opcode.toNat + flag.toNat * 2 ^ 8)

/-! ### Decoding (R49 step 1) -/

/-- Why a command word is illegal, in the order of the checks of 60_exceptions.md R146. -/
inductive Reject where
  /-- `CW[63:9] != 0`. -/
  | reservedBits
  /-- `CW.OPC` is not one of the 36 opcodes. -/
  | unassignedOpcode
  /-- `CW.FLAG = 1` on a command that takes no flag. -/
  | flagNotTaken
  deriving DecidableEq, Repr

/-- The command an opcode, a flag and a payload stand for: the payload split into slots (R44, R47). -/
def Op.command (flag : Bool) (ws : List Word) : Op → Instr
  | .sysSelimpl => .sysSelimpl ws
  | .lv2Add => .lv2Add (ws.take 2) (ws.drop 2)
  | .lv2Sub => .lv2Sub (ws.take 2) (ws.drop 2)
  | .lv2Csel => .lv2Csel flag (ws.take 2) (ws.drop 2)
  | .lv2Cswap => .lv2Cswap flag (ws.take 2) (ws.drop 2)
  | .lv6Add => .lv6Add (ws.take 6) (ws.drop 6)
  | .lv6Sub => .lv6Sub (ws.take 6) (ws.drop 6)
  | .lv6Csel => .lv6Csel flag (ws.take 6) (ws.drop 6)
  | .lv6Cswap => .lv6Cswap flag (ws.take 6) (ws.drop 6)
  | .f127Add => .f127Add (ws.take 2) (ws.drop 2)
  | .f127Sub => .f127Sub (ws.take 2) (ws.drop 2)
  | .f127Neg => .f127Neg ws
  | .f127Mul => .f127Mul (ws.take 2) (ws.drop 2)
  | .f127Sqr => .f127Sqr ws
  | .f127Csel => .f127Csel flag (ws.take 2) (ws.drop 2)
  | .f127Canon => .f127Canon ws
  | .f384Add => .f384Add (ws.take 6) (ws.drop 6)
  | .f384Sub => .f384Sub (ws.take 6) (ws.drop 6)
  | .f384Neg => .f384Neg ws
  | .f384Mul => .f384Mul (ws.take 6) (ws.drop 6)
  | .f384Sqr => .f384Sqr ws
  | .f384Csel => .f384Csel flag (ws.take 6) (ws.drop 6)
  | .f384Canon => .f384Canon ws
  | .fp2Add => .fp2Add (fp2OfWords (ws.take 4)) (fp2OfWords (ws.drop 4))
  | .fp2Sub => .fp2Sub (fp2OfWords (ws.take 4)) (fp2OfWords (ws.drop 4))
  | .fp2Neg => .fp2Neg (fp2OfWords ws)
  | .fp2Mul => .fp2Mul (fp2OfWords (ws.take 4)) (fp2OfWords (ws.drop 4))
  | .fp2Sqr => .fp2Sqr (fp2OfWords ws)
  | .fp2Csel => .fp2Csel flag (fp2OfWords (ws.take 4)) (fp2OfWords (ws.drop 4))
  | .fp2Canon => .fp2Canon (fp2OfWords ws)
  | .edDbl => .edDbl (edPointOfWords ws)
  | .edAdd => .edAdd (edPointOfWords (ws.take 20)) (edEntryOfWords (ws.drop 20))
  | .edMadd => .edMadd (edPointOfWords (ws.take 20)) (edEntryOfWords (ws.drop 20))
  | .mlStep => .mlStep flag (mlStateOfWords ws)
  | .mlDbl => .mlDbl (mlStateOfWords ws)
  | .mlDadd => .mlDadd (mlStateOfWords (ws.take (5 * LF.nl))) (ws.drop (5 * LF.nl))

/-- The decoder, total on every frame: the checks of R49 step (1) in the order of 60_exceptions.md R146, then the slots.
A legal command word with the wrong number of operand words gives a command that is not well-formed; its meaning
answers `BADLEN` (R49 step 2). -/
def decode (f : CommandFrame) : Except Reject Instr :=
  if reservedField f.cw ≠ 0 then .error .reservedBits
  else match Op.ofOpcode (opcField f.cw) with
    | none => .error .unassignedOpcode
    | some op =>
      if flagField f.cw && !op.takesFlag then .error .flagNotTaken
      else .ok (op.command (flagField f.cw) f.payload)

/-! ### Encoding -/

/-- The opcode of a command. -/
def Instr.op : Instr → Op
  | .sysSelimpl _ => .sysSelimpl
  | .lv2Add _ _ => .lv2Add
  | .lv2Sub _ _ => .lv2Sub
  | .lv2Csel _ _ _ => .lv2Csel
  | .lv2Cswap _ _ _ => .lv2Cswap
  | .lv6Add _ _ => .lv6Add
  | .lv6Sub _ _ => .lv6Sub
  | .lv6Csel _ _ _ => .lv6Csel
  | .lv6Cswap _ _ _ => .lv6Cswap
  | .f127Add _ _ => .f127Add
  | .f127Sub _ _ => .f127Sub
  | .f127Neg _ => .f127Neg
  | .f127Mul _ _ => .f127Mul
  | .f127Sqr _ => .f127Sqr
  | .f127Csel _ _ _ => .f127Csel
  | .f127Canon _ => .f127Canon
  | .f384Add _ _ => .f384Add
  | .f384Sub _ _ => .f384Sub
  | .f384Neg _ => .f384Neg
  | .f384Mul _ _ => .f384Mul
  | .f384Sqr _ => .f384Sqr
  | .f384Csel _ _ _ => .f384Csel
  | .f384Canon _ => .f384Canon
  | .fp2Add _ _ => .fp2Add
  | .fp2Sub _ _ => .fp2Sub
  | .fp2Neg _ => .fp2Neg
  | .fp2Mul _ _ => .fp2Mul
  | .fp2Sqr _ => .fp2Sqr
  | .fp2Csel _ _ _ => .fp2Csel
  | .fp2Canon _ => .fp2Canon
  | .edDbl _ => .edDbl
  | .edAdd _ _ => .edAdd
  | .edMadd _ _ => .edMadd
  | .mlStep _ _ => .mlStep
  | .mlDbl _ => .mlDbl
  | .mlDadd _ _ => .mlDadd

/-- The flag operand of a command, 0 where it takes none (R43). -/
def Instr.flag : Instr → Bool
  | .lv2Csel f _ _ | .lv2Cswap f _ _ | .lv6Csel f _ _ | .lv6Cswap f _ _ => f
  | .f127Csel f _ _ | .f384Csel f _ _ | .fp2Csel f _ _ | .mlStep f _ => f
  | .sysSelimpl _ | .lv2Add _ _ | .lv2Sub _ _ | .lv6Add _ _ | .lv6Sub _ _
  | .f127Add _ _ | .f127Sub _ _ | .f127Neg _ | .f127Mul _ _ | .f127Sqr _ | .f127Canon _
  | .f384Add _ _ | .f384Sub _ _ | .f384Neg _ | .f384Mul _ _ | .f384Sqr _ | .f384Canon _
  | .fp2Add _ _ | .fp2Sub _ _ | .fp2Neg _ | .fp2Mul _ _ | .fp2Sqr _ | .fp2Canon _
  | .edDbl _ | .edAdd _ _ | .edMadd _ _ | .mlDbl _ | .mlDadd _ _ => false

/-- The operand words of a command, slot after slot with no padding (R44). -/
def Instr.operands : Instr → List Word
  | .sysSelimpl surplus => surplus
  | .lv2Add a b | .lv2Sub a b | .lv2Csel _ a b | .lv2Cswap _ a b => a ++ b
  | .lv6Add a b | .lv6Sub a b | .lv6Csel _ a b | .lv6Cswap _ a b => a ++ b
  | .f127Add a b | .f127Sub a b | .f127Mul a b | .f127Csel _ a b => a ++ b
  | .f127Neg a | .f127Sqr a | .f127Canon a => a
  | .f384Add a b | .f384Sub a b | .f384Mul a b | .f384Csel _ a b => a ++ b
  | .f384Neg a | .f384Sqr a | .f384Canon a => a
  | .fp2Add a b | .fp2Sub a b | .fp2Mul a b | .fp2Csel _ a b => fp2Words a ++ fp2Words b
  | .fp2Neg a | .fp2Sqr a | .fp2Canon a => fp2Words a
  | .edDbl P => edPointWords P
  | .edAdd P Q | .edMadd P Q => edPointWords P ++ edEntryWords Q
  | .mlStep _ S | .mlDbl S => mlStateWords S
  | .mlDadd S fx => mlStateWords S ++ fx

/-- The encoder: the command word of R42 and the operand words of R44. -/
def encode (i : Instr) : CommandFrame := ⟨commandWord i.op i.flag, i.operands⟩

/-! ### The byte image of frame words (20_memory.md R34) -/

/-- The eight bytes of a word, byte 0 its bits 7:0. -/
def bytesOfWord (w : Word) : List Byte :=
  [w.extractLsb' 0 8, w.extractLsb' 8 8, w.extractLsb' 16 8, w.extractLsb' 24 8,
    w.extractLsb' 32 8, w.extractLsb' 40 8, w.extractLsb' 48 8, w.extractLsb' 56 8]

/-- The byte image of a list of words, words in frame order. -/
def bytesOfWords (ws : List Word) : List Byte := ws.flatMap bytesOfWord

/-- The words a byte image stands for; none where it is no whole number of 64-bit words (R35). -/
def wordsOfBytes : List Byte → Option (List Word)
  | [] => some []
  | b0 :: b1 :: b2 :: b3 :: b4 :: b5 :: b6 :: b7 :: rest =>
    (wordsOfBytes rest).map fun ws => (b7 ++ b6 ++ b5 ++ b4 ++ b3 ++ b2 ++ b1 ++ b0) :: ws
  | _ => none

/-- The byte image of a command frame. -/
def bytesOfFrame (f : CommandFrame) : List Byte := bytesOfWords (f.cw :: f.payload)

/-- The command frame a byte image stands for; an empty frame cannot be formed (60_exceptions.md R146). -/
def frameOfBytes (bs : List Byte) : Option CommandFrame :=
  match wordsOfBytes bs with
  | some (w :: ws) => some ⟨w, ws⟩
  | _ => none

/-! ### The host's view: one opcode-table word -/

/-- The frame whose bits are `w`: the command word in bits 63..0, the operand words `INW(op)` of them in the bits
above, every bit from `nbits` on zero. -/
def tableFrame (nbits w : Nat) : CommandFrame :=
  let bits := w % 2 ^ nbits
  let cw := BitVec.ofNat 64 bits
  match Op.ofOpcode (opcField cw) with
  | some op => ⟨cw, vec op.inw (bits / 2 ^ 64)⟩
  | none => ⟨cw, []⟩

/-- The command the decoder reads from `tableFrame`. -/
def decodeTableWord (nbits w : Nat) : Option Instr :=
  match decode (tableFrame nbits w) with
  | .ok i => some i
  | .error _ => none

end Sys2Proof
end

