-- ==== Sys2Proof/Machine/Flags.lean ====
section
/-! DEFINITION. The two one-bit values `SW.CF` can carry (10_state.md R16, 40_limbvector.md R59 to R62). -/

namespace Sys2Proof.Machine

/-- The final carry of an `n`-limb addition: the bit `s div 2^(64n)` of the exact sum (R59, R60). -/
def carryOut (n : Nat) (a b : List Limb) : Bool := (val a + val b) / 2 ^ (64 * n) == 1

/-- The final borrow of a subtraction: 1 exactly when the exact difference is negative (R61, R62). -/
def borrowOut (a b : List Limb) : Bool := decide ((val a : Int) - (val b : Int) < 0)

end Sys2Proof.Machine
end

