-- ==== Sys2Proof/Machine/State.lean ====
section
/-! DEFINITION. The state of the machine: `CFG`, the whole mutable state of CORE (10_state.md R13, R17), and the two
channels between CORE and its driver (20_memory.md R38; log entry 1). -/

namespace Sys2Proof.Machine

/-- Why the machine could stop with a fault: never.
No constructor, so nothing can raise one: every command is a total function of its operands, and "none is `fault`"
(00_scope.md R8, 60_exceptions.md R151, 93_implementation_defined.md part 1). -/
inductive Fault where
  deriving DecidableEq, Repr

/-- Why an instruction could have no meaning. -/
inductive Refusal where
  /-- Raised by an arm of `exec` whose instruction has no meaning yet; safe, the machine stops where the hardware goes on.
  No arm raises it now. -/
  | notModelled (mnemonic : String)
  deriving DecidableEq, Repr

/-- The configuration register `CFG`, exactly two bits wide (R17). -/
structure Cfg where
  /-- `CFG.IMPL_SEL`, bit 0: which multiply/reduce path is active, 0 fallback, 1 accelerated. -/
  implSel : Bool
  /-- `CFG.SEL_DONE`, bit 1: the one-time selection has been made. -/
  selDone : Bool
  deriving DecidableEq, Repr

/-- `CFG` after reset (10_state.md R29, 70_reset_and_hazards.md R160). -/
def Cfg.reset : Cfg := { implSel := false, selDone := false }

/-- The status of a response (60_exceptions.md R145). -/
inductive Status where
  | ok
  | illegal
  | badLen
  deriving DecidableEq, Repr

/-- A response frame as a model gives it: the status word `SW` and the list of result words (30_encoding.md R41, R56). -/
structure ResponseFrame where
  sw : Word
  results : List Word
  deriving DecidableEq, Repr

/-- What the driver sends: a command frame, or the reset input between two frames (70_reset_and_hazards.md R159, R174). -/
inductive Input where
  | command (f : CommandFrame)
  | reset
  deriving DecidableEq, Repr

structure State where
  /-- The configuration register (R17). -/
  cfg : Cfg
  /-- The command channel: what the driver has sent and CORE has not taken yet, oldest first (R38; log entry 1). -/
  inputs : List Input
  /-- The response channel: every response frame CORE has returned, oldest first (R38, R173; log entry 1). -/
  responses : List ResponseFrame
  deriving DecidableEq, Repr

/-- The machine right after reset, idle and ready to take a command frame (R159, R160): `CFG` = (0, 0), nothing sent,
nothing answered. -/
def State.reset : State := { cfg := Cfg.reset, inputs := [], responses := [] }

end Sys2Proof.Machine
end

