-- ==== Sys2Proof/Machine/Ops.lean ====
section
/-! DEFINITION. The shared operations: the status word, returning a response, refusing a frame (CORE's only exception,
which traps nowhere), and reset (30_encoding.md R45, 60_exceptions.md R145 to R152, 70_reset_and_hazards.md R159). -/

namespace Sys2Proof.Machine

/-- The status codes (R145). -/
def Status.code : Status → Nat
  | .ok => 0
  | .illegal => 1
  | .badLen => 2

/-- `SW = STATUS + CF * 2^8 + IMPL * 2^9 + SELDONE * 2^10` (R45). -/
def statusWord (st : Status) (cf : Bool) (cfg : Cfg) : Word :=
  BitVec.ofNat 64 (st.code + cf.toNat * 2 ^ 8 + cfg.implSel.toNat * 2 ^ 9 + cfg.selDone.toNat * 2 ^ 10)

/-- The input at the head of the command channel has been taken (20_memory.md R38). -/
def State.withInputs (s : State) (rest : List Input) : State := { s with inputs := rest }

/-- `respond(code)` (00_scope.md R10): one response frame, showing `CFG` as it is now. -/
def State.respond (s : State) (st : Status) (cf : Bool) (out : List Word) : State :=
  { s with responses := s.responses ++ [{ sw := statusWord st cf s.cfg, results := out }] }

/-- What a frame error does, its whole effect (R146, R147, R151): the one-word response with `CF` = 0.
Nothing is saved, nothing else changes and control stays with the driver, so there is no return from it (R152). -/
def State.reject (s : State) (st : Status) : State := s.respond st false []

/-- The end of a command: `respond(OK)` with its flag and its result words, or `BADLEN` where the frame does not carry
the words of its operand slots (30_encoding.md R49 steps 2 and 3). -/
def finish (lengthOk cf : Bool) (out : List Word) (s : State) : Host.Outcome State Fault Refusal :=
  .next (if lengthOk then s.respond .ok cf out else s.reject .badLen)

/-- What the reset input does to CORE between two frames (70_reset_and_hazards.md R159, R160): `CFG` at its reset value,
no response; the driver keeps the responses it has received (log entry 10). -/
def State.applyReset (s : State) : State := { s with cfg := Cfg.reset }

end Sys2Proof.Machine
end

