-- ==== Sys2Proof/Machine/LimbVector.lean ====
section
/-! DEFINITION. LV: limb-vector add, subtract, select and swap at 2 and 6 limbs (40_limbvector.md). -/

namespace Sys2Proof.Machine

/-! ### The operations at any width -/

/-- `addWithCarry` (R59, R60): the sum modulo `2^(64n)`, and the final carry. -/
def lvAdd (n : Nat) (a b : List Limb) : List Limb × Bool :=
  (vec n ((val a + val b) % 2 ^ (64 * n)), carryOut n a b)

/-- `subWithBorrow` (R61, R62): the difference modulo `2^(64n)`, and the final borrow. -/
def lvSub (n : Nat) (a b : List Limb) : List Limb × Bool :=
  (vec n (((val a : Int) - (val b : Int)) % (2 : Int) ^ (64 * n)).toNat, borrowOut a b)

/-- `conditionalSwap` (R65, R66): `(ra, rb)`. -/
def lvCswap (flag : Bool) (a b : List Limb) : List Limb × List Limb := (selN flag b a, selN flag a b)

/-! ### The commands -/

/-- `LV2.ADD` (R59). -/
def execLv2Add (a b : List Limb) (s : State) : Host.Outcome State Fault Refusal :=
  finish (isLimbs 2 a && isLimbs 2 b) (lvAdd 2 a b).2 (lvAdd 2 a b).1 s

/-- `LV2.SUB` (R61). -/
def execLv2Sub (a b : List Limb) (s : State) : Host.Outcome State Fault Refusal :=
  finish (isLimbs 2 a && isLimbs 2 b) (lvSub 2 a b).2 (lvSub 2 a b).1 s

/-- `LV2.CSEL` (R63). -/
def execLv2Csel (flag : Bool) (a b : List Limb) (s : State) : Host.Outcome State Fault Refusal :=
  finish (isLimbs 2 a && isLimbs 2 b) false (selN flag a b) s

/-- `LV2.CSWAP` (R65). -/
def execLv2Cswap (flag : Bool) (a b : List Limb) (s : State) : Host.Outcome State Fault Refusal :=
  finish (isLimbs 2 a && isLimbs 2 b) false ((lvCswap flag a b).1 ++ (lvCswap flag a b).2) s

/-- `LV6.ADD` (R60). -/
def execLv6Add (a b : List Limb) (s : State) : Host.Outcome State Fault Refusal :=
  finish (isLimbs 6 a && isLimbs 6 b) (lvAdd 6 a b).2 (lvAdd 6 a b).1 s

/-- `LV6.SUB` (R62). -/
def execLv6Sub (a b : List Limb) (s : State) : Host.Outcome State Fault Refusal :=
  finish (isLimbs 6 a && isLimbs 6 b) (lvSub 6 a b).2 (lvSub 6 a b).1 s

/-- `LV6.CSEL` (R64). -/
def execLv6Csel (flag : Bool) (a b : List Limb) (s : State) : Host.Outcome State Fault Refusal :=
  finish (isLimbs 6 a && isLimbs 6 b) false (selN flag a b) s

/-- `LV6.CSWAP` (R66). -/
def execLv6Cswap (flag : Bool) (a b : List Limb) (s : State) : Host.Outcome State Fault Refusal :=
  finish (isLimbs 6 a && isLimbs 6 b) false ((lvCswap flag a b).1 ++ (lvCswap flag a b).2) s

end Sys2Proof.Machine
end

