-- ==== Sys2Proof/Machine/F127.lean ====
section
/-! DEFINITION. F127: the field modulo 2^127 - 1 on 2-limb vectors (41_f127.md).
The pseudocode is the definition for every operand pattern, inside and outside `NR127` (R80; log entry 8). -/

namespace Sys2Proof.Machine

open Config (P127)

/-! ### The reduction step (R69, R70) -/

/-- `FOLD(v) = (v mod 2^127) + (v >> 127)`. -/
def fold127 (v : Nat) : Nat := v % 2 ^ 127 + v / 2 ^ 127

/-- `MOD2(v) = FOLD(FOLD(v))`. -/
def mod2 (v : Nat) : Nat := fold127 (fold127 v)

/-! ### The field functions -/

/-- `ADD` (R72): the carry out of limb 1 is discarded. -/
def f127Add (a b : List Limb) : List Limb := vec 2 (mod2 ((val a + val b) % 2 ^ 128))

/-- `NEG` (R73): the complement of the 127 value bits, then the same fold. -/
def f127Neg (a : List Limb) : List Limb := vec 2 (mod2 (val a ^^^ P127))

/-- `SUB` (R74): `a + (-b)`. -/
def f127Sub (a b : List Limb) : List Limb :=
  let n := mod2 (val b ^^^ P127)
  vec 2 (mod2 ((val a + n) % 2 ^ 128))

/-- `V` of R75: the two halves of the product folded together. -/
def mulFold (T : Nat) : Nat :=
  let L := T % 2 ^ 128
  let H := T / 2 ^ 128
  (L % 2 ^ 127 + L / 2 ^ 127 + (2 * H) % 2 ^ 128) % 2 ^ 128

/-- `MUL` (R75). -/
def f127Mul (a b : List Limb) : List Limb := vec 2 (mod2 (mulFold (val a * val b)))

/-- `SQR` (R76): `MUL` with both operands equal. -/
def f127Sqr (a : List Limb) : List Limb := f127Mul a a

/-- `CANON` (R78): one conditional subtraction of `P127`, selected on the borrow. -/
def f127Canon (a : List Limb) : List Limb :=
  let d := lvSub 2 a (vec 2 P127)
  selN d.2 a d.1

/-! ### The commands -/

/-- `F127.ADD` (R72). -/
def execF127Add (a b : List Limb) (s : State) : Host.Outcome State Fault Refusal :=
  finish (isLimbs 2 a && isLimbs 2 b) false (f127Add a b) s

/-- `F127.SUB` (R74). -/
def execF127Sub (a b : List Limb) (s : State) : Host.Outcome State Fault Refusal :=
  finish (isLimbs 2 a && isLimbs 2 b) false (f127Sub a b) s

/-- `F127.NEG` (R73). -/
def execF127Neg (a : List Limb) (s : State) : Host.Outcome State Fault Refusal :=
  finish (isLimbs 2 a) false (f127Neg a) s

/-- `F127.MUL` (R75). -/
def execF127Mul (a b : List Limb) (s : State) : Host.Outcome State Fault Refusal :=
  finish (isLimbs 2 a && isLimbs 2 b) false (f127Mul a b) s

/-- `F127.SQR` (R76). -/
def execF127Sqr (a : List Limb) (s : State) : Host.Outcome State Fault Refusal :=
  finish (isLimbs 2 a) false (f127Sqr a) s

/-- `F127.CSEL` (R77): no reduction, the selected operand passes bit for bit. -/
def execF127Csel (flag : Bool) (a b : List Limb) (s : State) : Host.Outcome State Fault Refusal :=
  finish (isLimbs 2 a && isLimbs 2 b) false (selN flag a b) s

/-- `F127.CANON` (R78): the borrow is internal. -/
def execF127Canon (a : List Limb) (s : State) : Host.Outcome State Fault Refusal :=
  finish (isLimbs 2 a) false (f127Canon a) s

end Sys2Proof.Machine
end

