-- ==== Sys2Proof/Machine/FieldExt.lean ====
section
/-! DEFINITION. FP2: the quadratic extension of F127, every command a fixed composition of the F127 functions
(43_fp2.md). -/

namespace Sys2Proof.Machine

/-! ### The field functions -/

/-- `ADD` (R102), componentwise. -/
def fp2Add (a b : Fp2) : Fp2 := ⟨f127Add a.a0 b.a0, f127Add a.a1 b.a1⟩

/-- `SUB` (R103), componentwise. -/
def fp2Sub (a b : Fp2) : Fp2 := ⟨f127Sub a.a0 b.a0, f127Sub a.a1 b.a1⟩

/-- `NEG` (R104), componentwise. -/
def fp2Neg (a : Fp2) : Fp2 := ⟨f127Neg a.a0, f127Neg a.a1⟩

/-- `MUL` (R105), the four-product form, which is the normative one (90_conflicts.md C5). -/
def fp2Mul (a b : Fp2) : Fp2 :=
  let t0 := f127Mul a.a0 b.a0
  let t1 := f127Mul a.a1 b.a1
  let t2 := f127Mul a.a0 b.a1
  let t3 := f127Mul a.a1 b.a0
  ⟨f127Sub t0 t1, f127Add t2 t3⟩

/-- `SQR` (R107). -/
def fp2Sqr (a : Fp2) : Fp2 :=
  let t0 := f127Add a.a0 a.a1
  let t1 := f127Sub a.a0 a.a1
  let t2 := f127Mul a.a0 a.a1
  ⟨f127Mul t0 t1, f127Add t2 t2⟩

/-- `CSEL` (R108): one flag for both components. -/
def fp2Csel (flag : Bool) (a b : Fp2) : Fp2 := ⟨selN flag a.a0 b.a0, selN flag a.a1 b.a1⟩

/-- `CANON` (R109), componentwise. -/
def fp2Canon (a : Fp2) : Fp2 := ⟨f127Canon a.a0, f127Canon a.a1⟩

/-! ### The commands -/

/-- `FP2.ADD` (R102). -/
def execFp2Add (a b : Fp2) (s : State) : Host.Outcome State Fault Refusal :=
  finish (isFp2 a && isFp2 b) false (fp2Words (fp2Add a b)) s

/-- `FP2.SUB` (R103). -/
def execFp2Sub (a b : Fp2) (s : State) : Host.Outcome State Fault Refusal :=
  finish (isFp2 a && isFp2 b) false (fp2Words (fp2Sub a b)) s

/-- `FP2.NEG` (R104). -/
def execFp2Neg (a : Fp2) (s : State) : Host.Outcome State Fault Refusal :=
  finish (isFp2 a) false (fp2Words (fp2Neg a)) s

/-- `FP2.MUL` (R105). -/
def execFp2Mul (a b : Fp2) (s : State) : Host.Outcome State Fault Refusal :=
  finish (isFp2 a && isFp2 b) false (fp2Words (fp2Mul a b)) s

/-- `FP2.SQR` (R107). -/
def execFp2Sqr (a : Fp2) (s : State) : Host.Outcome State Fault Refusal :=
  finish (isFp2 a) false (fp2Words (fp2Sqr a)) s

/-- `FP2.CSEL` (R108). -/
def execFp2Csel (flag : Bool) (a b : Fp2) (s : State) : Host.Outcome State Fault Refusal :=
  finish (isFp2 a && isFp2 b) false (fp2Words (fp2Csel flag a b)) s

/-- `FP2.CANON` (R109). -/
def execFp2Canon (a : Fp2) (s : State) : Host.Outcome State Fault Refusal :=
  finish (isFp2 a) false (fp2Words (fp2Canon a)) s

end Sys2Proof.Machine
end

