-- ==== Sys2Proof/Machine/Edwards.lean ====
section
/-! DEFINITION. ED: extended Edwards point doubling, addition and mixed addition, each a fixed sequence of FP2
functions, every temporary under its own name (44_edwards.md R115 to R117, R121). -/

namespace Sys2Proof.Machine

/-! ### The point functions -/

/-- `Double` (R115); `Ta` and `Tb` of the operand are not read. -/
def edDbl (P : EdPoint) : EdPoint :=
  let s := fp2Add P.X P.Y
  let a := fp2Sqr P.X
  let b := fp2Sqr P.Y
  let z := fp2Sqr P.Z
  let c := fp2Add z z
  let d := fp2Add a b
  let q := fp2Sqr s
  let e := fp2Sub q d
  let f := fp2Sub b a
  let g := fp2Sub c f
  { X := fp2Mul e g, Y := fp2Mul d f, Z := fp2Mul f g, Ta := d, Tb := e }

/-- The steps R116 and R117 share: all but the line that forms `d`. -/
def edAddWith (P : EdPoint) (Q : EdEntry) (d : Fp2) : EdPoint :=
  let t := fp2Mul P.Ta P.Tb
  let m := fp2Sub P.Y P.X
  let n := fp2Add P.Y P.X
  let a := fp2Mul m Q.diffYX
  let b := fp2Mul n Q.sumYX
  let e := fp2Sub b a
  let h := fp2Add b a
  let c := fp2Mul t Q.doubledTProduct
  let f := fp2Sub d c
  let g := fp2Add d c
  { X := fp2Mul e f, Y := fp2Mul g h, Z := fp2Mul f g, Ta := e, Tb := h }

/-- `Add` (R116): `d = mul(Z, doubledZ)`. -/
def edAdd (P : EdPoint) (Q : EdEntry) : EdPoint := edAddWith P Q (fp2Mul P.Z Q.doubledZ)

/-- `MixedAdd` (R117): `d = add(Z, Z)`; `doubledZ` is carried in the frame and not read. -/
def edMadd (P : EdPoint) (Q : EdEntry) : EdPoint := edAddWith P Q (fp2Add P.Z P.Z)

/-! ### The commands -/

/-- `ED.DBL` (R115). -/
def execEdDbl (P : EdPoint) (s : State) : Host.Outcome State Fault Refusal :=
  finish (isEdPoint P) false (edPointWords (edDbl P)) s

/-- `ED.ADD` (R116). -/
def execEdAdd (P : EdPoint) (Q : EdEntry) (s : State) : Host.Outcome State Fault Refusal :=
  finish (isEdPoint P && isEdEntry Q) false (edPointWords (edAdd P Q)) s

/-- `ED.MADD` (R117). -/
def execEdMadd (P : EdPoint) (Q : EdEntry) (s : State) : Host.Outcome State Fault Refusal :=
  finish (isEdPoint P && isEdEntry Q) false (edPointWords (edMadd P Q)) s

end Sys2Proof.Machine
end

