-- ==== Sys2Proof/Machine/F384.lean ====
section
/-! DEFINITION. F384: the 384-bit field and its Montgomery multiplier on 6-limb vectors (42_f384.md).
Every function takes the modulus `p` as an argument (R99); the commands take the build's `P384`.
The pseudocode is the definition for every operand pattern, inside and outside `CAN384` (R98; log entry 8). -/

namespace Sys2Proof.Machine

/-! ### The Montgomery constant (R85) -/

/-- One Newton step towards the inverse of `p` modulo 2^384: it doubles the number of right low bits. -/
def newtonStep (p x : Nat) : Nat := x * (2 + (2 ^ 384 - p * x % 2 ^ 384)) % 2 ^ 384

/-- `k` Newton steps from `x`. -/
def newtonIter (p : Nat) : (k x : Nat) → Nat
  | 0, x => x
  | k + 1, x => newtonIter p k (newtonStep p x)

/-- `NPRIME384` = (-p^-1) mod 2^384, computed from the odd modulus `p`: nine steps from the inverse modulo 2, which
is 1. -/
def nprime384 (p : Nat) : Nat := (2 ^ 384 - newtonIter p 9 1) % 2 ^ 384

/-! ### Reduction (R86, R87) -/

/-- The multiplier `m` of R86. -/
def redcM (p T : Nat) : Nat := ((T % 2 ^ 384) * nprime384 p) % 2 ^ 384

/-- `REDC(T)`: `(T + m*p) div 2^384`. -/
def redc (p T : Nat) : Nat := (T + redcM p T * p) / 2 ^ 384

/-- `GFPCARRY(t)`: one conditional subtraction of `p` over all seven limbs of `t`, the low six kept. -/
def gfpCarry (p t : Nat) : Nat := (if t < p then t else t - p) % 2 ^ 384

/-! ### The field functions -/

/-- `MUL` (R89), the Montgomery multiplication. -/
def f384Mul (p : Nat) (a b : List Limb) : List Limb := vec 6 (gfpCarry p (redc p (val a * val b)))

/-- `SQR` (R90). -/
def f384Sqr (p : Nat) (a : List Limb) : List Limb := f384Mul p a a

/-- `ADD` (R91): the 385-bit sum, then `GFPCARRY`. -/
def f384Add (p : Nat) (a b : List Limb) : List Limb := vec 6 (gfpCarry p (val a + val b))

/-- `SUB` (R92): `LV6.SUB`, and `p` added back when it borrowed. -/
def f384Sub (p : Nat) (a b : List Limb) : List Limb :=
  let d := lvSub 6 a b
  let e := (val d.1 + p) % 2 ^ 384
  selN d.2 (vec 6 e) d.1

/-- `NEG` (R93): `SUB(0, a)`. -/
def f384Neg (p : Nat) (a : List Limb) : List Limb := f384Sub p (vec 6 0) a

/-- `CANON` (R95). -/
def f384Canon (p : Nat) (a : List Limb) : List Limb := vec 6 (gfpCarry p (val a))

/-! ### The commands -/

/-- `F384.ADD` (R91). -/
def execF384Add (a b : List Limb) (s : State) : Host.Outcome State Fault Refusal :=
  finish (isLimbs 6 a && isLimbs 6 b) false (f384Add P384 a b) s

/-- `F384.SUB` (R92). -/
def execF384Sub (a b : List Limb) (s : State) : Host.Outcome State Fault Refusal :=
  finish (isLimbs 6 a && isLimbs 6 b) false (f384Sub P384 a b) s

/-- `F384.NEG` (R93). -/
def execF384Neg (a : List Limb) (s : State) : Host.Outcome State Fault Refusal :=
  finish (isLimbs 6 a) false (f384Neg P384 a) s

/-- `F384.MUL` (R89). -/
def execF384Mul (a b : List Limb) (s : State) : Host.Outcome State Fault Refusal :=
  finish (isLimbs 6 a && isLimbs 6 b) false (f384Mul P384 a b) s

/-- `F384.SQR` (R90). -/
def execF384Sqr (a : List Limb) (s : State) : Host.Outcome State Fault Refusal :=
  finish (isLimbs 6 a) false (f384Sqr P384 a) s

/-- `F384.CSEL` (R94). -/
def execF384Csel (flag : Bool) (a b : List Limb) (s : State) : Host.Outcome State Fault Refusal :=
  finish (isLimbs 6 a && isLimbs 6 b) false (selN flag a b) s

/-- `F384.CANON` (R95). -/
def execF384Canon (a : List Limb) (s : State) : Host.Outcome State Fault Refusal :=
  finish (isLimbs 6 a) false (f384Canon P384 a) s

end Sys2Proof.Machine
end

