-- ==== Sys2Proof/Machine/Ladder.lean ====
section
/-! DEFINITION. ML: Montgomery-ladder step, doubling and differential addition, generic in the ladder field
(45_ladder.md); the commands take the build's `LF`. -/

namespace Sys2Proof.Machine

open Config (LadderParams)

/-! ### Internal operators (R127, R128) -/

/-- The last five lines of `XDBL`, from the sum and the difference of the pair (R127, R129). -/
def mlDouble (F : LadderParams) (A B : List Limb) : List Limb × List Limb :=
  let AA := F.sqr A
  let BB := F.sqr B
  let E := F.sub AA BB
  let t := F.add (F.mulA24 E) BB
  (F.mul AA BB, F.mul E t)

/-- `XDBL(x, z)`, x-only doubling (R127). -/
def xdbl (F : LadderParams) (x z : List Limb) : List Limb × List Limb := mlDouble F (F.add x z) (F.sub x z)

/-- The values `XCROSS` returns (R128). -/
structure Cross where
  A : List Limb
  B : List Limb
  C : List Limb
  D : List Limb
  S : List Limb
  W : List Limb
  deriving DecidableEq, Repr

/-- `XCROSS(xa, za, xb, zb)`, the cross products of a differential addition (R128). -/
def xcross (F : LadderParams) (xa za xb zb : List Limb) : Cross :=
  let A := F.add xa za
  let B := F.sub xa za
  let C := F.add xb zb
  let D := F.sub xb zb
  let DA := F.mul D A
  let CB := F.mul C B
  { A, B, C, D, S := F.add DA CB, W := F.sub DA CB }

/-! ### The ladder functions -/

/-- `LadderStep` (R129): the next pair becomes the sum, the current pair the double of the pair the flag picks. -/
def mlStep (F : LadderParams) (flag : Bool) (S : MlState) : MlState :=
  let k := xcross F S.x2 S.z2 S.x3 S.z3
  let A2 := selN flag k.C k.A
  let B2 := selN flag k.D k.B
  let d := mlDouble F A2 B2
  { x1 := S.x1, x2 := d.1, z2 := d.2, x3 := F.sqr k.S, z3 := F.mul S.x1 (F.sqr k.W) }

/-- `DoubleOnly` (R130): it doubles the current pair and leaves the rest. -/
def mlDbl (F : LadderParams) (S : MlState) : MlState :=
  let d := xdbl F S.x2 S.z2
  { S with x2 := d.1, z2 := d.2 }

/-- `DifferentialAdd` (R132): the next pair becomes the sum of the two, `fx` the x-coordinate of their difference. -/
def mlDadd (F : LadderParams) (S : MlState) (fx : List Limb) : MlState :=
  let k := xcross F S.x2 S.z2 S.x3 S.z3
  { S with x3 := F.sqr k.S, z3 := F.mul fx (F.sqr k.W) }

/-! ### The commands -/

/-- `ML.STEP` (R129). -/
def execMlStep (flag : Bool) (S : MlState) (s : State) : Host.Outcome State Fault Refusal :=
  finish (isMlState S) false (mlStateWords (mlStep LF flag S)) s

/-- `ML.DBL` (R130). -/
def execMlDbl (S : MlState) (s : State) : Host.Outcome State Fault Refusal :=
  finish (isMlState S) false (mlStateWords (mlDbl LF S)) s

/-- `ML.DADD` (R132). -/
def execMlDadd (S : MlState) (fx : List Limb) (s : State) : Host.Outcome State Fault Refusal :=
  finish (isMlState S && isLimbs LF.nl fx) false (mlStateWords (mlDadd LF S fx)) s

/-! ### The test instance (R136) -/

/-- `LF_TEST`: F127 with `a24` = 121666, "a test device of this spec, not a claim about the hardware". -/
def LF_TEST : LadderParams where
  ql := Config.P127
  nl := 2
  nrl v := v.length = 2 ∧ val v < 2 ^ 127
  a24 := 121666
  add := f127Add
  sub := f127Sub
  mul := f127Mul
  sqr := f127Sqr
  mulA24 x := f127Mul x (vec 2 121666)

end Sys2Proof.Machine
end

