-- ==== Sys2Proof/Machine/System.lean ====
section
/-! DEFINITION. SYS: the one-time selection of the multiply/reduce path (46_system.md R137 to R144), and the latency a
command has on the selected path (70_reset_and_hazards.md R172). -/

namespace Sys2Proof.Machine

/-- The selection of R138: `CFG` := (`HAS_MAC`, 1) the first time, no change from then on (R141). -/
def State.selectImpl (s : State) : State :=
  if s.cfg.selDone then s else { s with cfg := { implSel := Config.HAS_MAC, selDone := true } }

/-- `SYS.SELIMPL` (R138): the response shows `CFG` after the update.
A frame with any operand word is `BADLEN` and changes nothing (60_exceptions.md R147). -/
def execSysSelimpl (surplus : List Word) (s : State) : Host.Outcome State Fault Refusal :=
  .next (if isLimbs 0 surplus then s.selectImpl.respond .ok false [] else s.reject .badLen)

/-- The two multiply/reduce paths (R137). -/
inductive Path where
  | fallback
  | accelerated
  deriving DecidableEq, Repr

/-- "Which path a command uses is decided by `CFG.IMPL_SEL` alone" (R137).
Both give the same bits (R139), so every arithmetic rule is stated once (R143). -/
def activePath (s : State) : Path := if s.cfg.implSel then .accelerated else .fallback

/-- The latency of a command: `LAT` of its opcode and of `CFG.IMPL_SEL`, and of nothing else (R172). -/
def latency (i : Instr) (s : State) : Nat := Config.LAT i.op.opcode s.cfg.implSel

end Sys2Proof.Machine
end

