-- ==== Sys2Proof/Machine/Dispatch.lean ====
section
/-! DEFINITION. One arm per command of the opcode table (30_encoding.md R47). -/

namespace Sys2Proof.Machine

def exec (i : Instr) (s : State) : Host.Outcome State Fault Refusal :=
  match i with
  | .sysSelimpl surplus => Sys2Proof.Machine.execSysSelimpl surplus s
  | .lv2Add a b => Sys2Proof.Machine.execLv2Add a b s
  | .lv2Sub a b => Sys2Proof.Machine.execLv2Sub a b s
  | .lv2Csel flag a b => Sys2Proof.Machine.execLv2Csel flag a b s
  | .lv2Cswap flag a b => Sys2Proof.Machine.execLv2Cswap flag a b s
  | .lv6Add a b => Sys2Proof.Machine.execLv6Add a b s
  | .lv6Sub a b => Sys2Proof.Machine.execLv6Sub a b s
  | .lv6Csel flag a b => Sys2Proof.Machine.execLv6Csel flag a b s
  | .lv6Cswap flag a b => Sys2Proof.Machine.execLv6Cswap flag a b s
  | .f127Add a b => Sys2Proof.Machine.execF127Add a b s
  | .f127Sub a b => Sys2Proof.Machine.execF127Sub a b s
  | .f127Neg a => Sys2Proof.Machine.execF127Neg a s
  | .f127Mul a b => Sys2Proof.Machine.execF127Mul a b s
  | .f127Sqr a => Sys2Proof.Machine.execF127Sqr a s
  | .f127Csel flag a b => Sys2Proof.Machine.execF127Csel flag a b s
  | .f127Canon a => Sys2Proof.Machine.execF127Canon a s
  | .f384Add a b => Sys2Proof.Machine.execF384Add a b s
  | .f384Sub a b => Sys2Proof.Machine.execF384Sub a b s
  | .f384Neg a => Sys2Proof.Machine.execF384Neg a s
  | .f384Mul a b => Sys2Proof.Machine.execF384Mul a b s
  | .f384Sqr a => Sys2Proof.Machine.execF384Sqr a s
  | .f384Csel flag a b => Sys2Proof.Machine.execF384Csel flag a b s
  | .f384Canon a => Sys2Proof.Machine.execF384Canon a s
  | .fp2Add a b => Sys2Proof.Machine.execFp2Add a b s
  | .fp2Sub a b => Sys2Proof.Machine.execFp2Sub a b s
  | .fp2Neg a => Sys2Proof.Machine.execFp2Neg a s
  | .fp2Mul a b => Sys2Proof.Machine.execFp2Mul a b s
  | .fp2Sqr a => Sys2Proof.Machine.execFp2Sqr a s
  | .fp2Csel flag a b => Sys2Proof.Machine.execFp2Csel flag a b s
  | .fp2Canon a => Sys2Proof.Machine.execFp2Canon a s
  | .edDbl P => Sys2Proof.Machine.execEdDbl P s
  | .edAdd P Q => Sys2Proof.Machine.execEdAdd P Q s
  | .edMadd P Q => Sys2Proof.Machine.execEdMadd P Q s
  | .mlStep flag S => Sys2Proof.Machine.execMlStep flag S s
  | .mlDbl S => Sys2Proof.Machine.execMlDbl S s
  | .mlDadd S fx => Sys2Proof.Machine.execMlDadd S fx s

end Sys2Proof.Machine
end

