-- ==== Sys2Proof/Machine/Step.lean ====
section
/-! DEFINITION. One step of the machine: CORE takes the oldest input of the command channel and answers it
(20_memory.md R38, 30_encoding.md R49, 60_exceptions.md R157). -/

namespace Sys2Proof.Machine

/-- With nothing sent CORE is idle, and idleness keeps `CFG` (60_exceptions.md R156).
The reset input resets it (70_reset_and_hazards.md R159).
A command frame is decoded: an illegal command word is answered `ILLEGAL` (R49 step 1), and a legal one is executed
(step 3) or, by its meaning, answered `BADLEN` (step 2). -/
def step (s : State) : Host.Outcome State Fault Refusal :=
  match s.inputs with
  | [] => .next s
  | .reset :: rest => .next (s.withInputs rest).applyReset
  | .command f :: rest =>
    match decode f with
    | .ok i => exec i (s.withInputs rest)
    | .error _ => .next ((s.withInputs rest).reject .illegal)

/-- The command of one opcode-table word, at the head of the command channel, where `step` takes its next input. -/
def State.withFetchWord (s : State) (nbits w : Nat) : State :=
  s.withInputs (.command (tableFrame nbits w) :: s.inputs)

end Sys2Proof.Machine
end

