-- ==== Sys2Proof/Safety.lean ====
section
/-! DEFINITION. The terms claims use: named ranges (00_scope.md R11), legal responses and configurations (10_state.md
R17, 60_exceptions.md R145), the illegal words and the frame lengths of 30_encoding.md written out a second time from
the rules alone, runs (70_reset_and_hazards.md R173) and the values curve points stand for. -/

namespace Sys2Proof.Machine

open Config (P127)

/-! ### Named ranges (R11) -/

/-- A 2-limb vector in `NR127` = [0, 2^127 - 1]. -/
abbrev NR127 (a : List Limb) : Prop := a.length = 2 ∧ val a < 2 ^ 127

/-- A 2-limb vector in `CAN127` = [0, P127 - 1]. -/
abbrev CAN127 (a : List Limb) : Prop := a.length = 2 ∧ val a < P127

/-- A 2-limb vector in `LAZY127` = [0, 2*P127 - 1]. -/
abbrev LAZY127 (a : List Limb) : Prop := a.length = 2 ∧ val a < 2 * P127

/-- A 6-limb vector in `CAN384` = [0, P384 - 1], for the modulus `p`. -/
abbrev CAN384 (p : Nat) (a : List Limb) : Prop := a.length = 6 ∧ val a < p

/-- Both components in `NR127` (43_fp2.md R101). -/
abbrev NRFp2 (a : Fp2) : Prop := NR127 a.a0 ∧ NR127 a.a1

abbrev NREdPoint (P : EdPoint) : Prop := NRFp2 P.X ∧ NRFp2 P.Y ∧ NRFp2 P.Z ∧ NRFp2 P.Ta ∧ NRFp2 P.Tb

abbrev NREdEntry (Q : EdEntry) : Prop :=
  NRFp2 Q.sumYX ∧ NRFp2 Q.diffYX ∧ NRFp2 Q.doubledZ ∧ NRFp2 Q.doubledTProduct

/-- All five elements in the ladder field's working domain. -/
abbrev NRMlState (F : Config.LadderParams) (S : MlState) : Prop :=
  F.nrl S.x1 ∧ F.nrl S.x2 ∧ F.nrl S.z2 ∧ F.nrl S.x3 ∧ F.nrl S.z3

/-! ### The command word and the frame length, from the columns of R47 -/

/-- The column `OPC` of R47. -/
def opcodeColumn : List Nat :=
  [0x01, 0x10, 0x11, 0x12, 0x13, 0x20, 0x21, 0x22, 0x23, 0x30, 0x31, 0x32, 0x33, 0x34, 0x35, 0x36] ++
  [0x40, 0x41, 0x42, 0x43, 0x44, 0x45, 0x46, 0x50, 0x51, 0x52, 0x53, 0x54, 0x55, 0x56, 0x60, 0x61, 0x62, 0x70, 0x71, 0x72]

/-- The opcodes whose column `FLAG` says "yes". -/
def flagColumn : List Nat := [0x12, 0x13, 0x22, 0x23, 0x35, 0x45, 0x55, 0x70]

/-- The check of 60_exceptions.md R146 on the command word. -/
def IllegalWord (w : Word) : Prop :=
  w.toNat / 2 ^ 9 ≠ 0 ∨ w.toNat % 2 ^ 8 ∉ opcodeColumn ∨
    (w.toNat / 2 ^ 8 % 2 = 1 ∧ w.toNat % 2 ^ 8 ∉ flagColumn)

/-- The columns `INW` and `OUTW` of R47, for the opcode `opc`. -/
def frameWords (opc : Nat) : Nat × Nat :=
  if opc = 0x01 then (0, 0)
  else if opc = 0x13 then (4, 4)
  else if opc = 0x23 then (12, 12)
  else if opc / 16 = 1 then (4, 2)
  else if opc / 16 = 2 then (12, 6)
  else if opc ∈ [0x32, 0x34, 0x36] then (2, 2)
  else if opc ∈ [0x42, 0x44, 0x46] then (6, 6)
  else if opc ∈ [0x52, 0x54, 0x56] then (4, 4)
  else if opc / 16 = 3 then (4, 2)
  else if opc / 16 = 4 then (12, 6)
  else if opc / 16 = 5 then (8, 4)
  else if opc = 0x60 then (20, 20)
  else if opc / 16 = 6 then (36, 20)
  else if opc = 0x72 then (6 * LF.nl, 5 * LF.nl)
  else (5 * LF.nl, 5 * LF.nl)

/-! ### Status word fields (R45) -/

/-- `SW.STATUS`, bits 7:0. -/
def swStatus (sw : Word) : Nat := sw.toNat % 2 ^ 8

/-- `SW.CF`, bit 8. -/
def swCf (sw : Word) : Bool := sw.getLsbD 8

/-- `SW.IMPL`, bit 9. -/
def swImpl (sw : Word) : Bool := sw.getLsbD 9

/-- `SW.SELDONE`, bit 10. -/
def swSelDone (sw : Word) : Bool := sw.getLsbD 10

/-! ### The invariant -/

/-- A legal value of `CFG`: no path selected before the selection, and after it the path `HAS_MAC` says (R17, 46_system.md R138). -/
def Cfg.legal (c : Cfg) : Bool := if c.selDone then c.implSel == Config.HAS_MAC else !c.implSel

/-- A response frame CORE can give (R45, R51, R145; U12 of 93_implementation_defined.md): no bit above 10, one of the
three codes, nothing but the status word after an error, and a legal `CFG` in `IMPL` and `SELDONE`. -/
def ResponseFrame.legal (r : ResponseFrame) : Bool :=
  decide (r.sw.toNat < 2 ^ 11) && decide (swStatus r.sw ≤ 2) &&
    (swStatus r.sw == 0 || (r.results.isEmpty && !swCf r.sw)) &&
    Cfg.legal { implSel := swImpl r.sw, selDone := swSelDone r.sw }

/-- The invariant every step keeps. -/
def State.Inv (s : State) : Prop := s.cfg.legal = true ∧ ∀ r ∈ s.responses, r.legal = true

/-! ### Runs (R173) -/

/-- The state in which the driver's commands `fs` are the next inputs, before `rest`. -/
def State.sent (s : State) (fs : List CommandFrame) (rest : List Input) : State :=
  s.withInputs (fs.map Input.command ++ rest)

/-- CORE with configuration `cfg` and nothing else, given the one command `f`: what it leaves in `CFG` and answers. -/
def answerAlone (cfg : Cfg) (f : CommandFrame) : Cfg × List ResponseFrame :=
  match step { cfg, inputs := [.command f], responses := [] } with
  | .next t => (t.cfg, t.responses)
  | .fault _ => (cfg, [])
  | .refused _ => (cfg, [])

/-- Command after command, each answered by a CORE that knows `CFG` as its predecessors left it and nothing else
(20_memory.md R38). -/
def serve (cfg : Cfg) : List CommandFrame → Cfg × List ResponseFrame
  | [] => (cfg, [])
  | f :: fs =>
    let one := answerAlone cfg f
    let more := serve one.1 fs
    (more.1, one.2 ++ more.2)

/-- A safe run: at every length it has a state, and the state meets the invariant. -/
def State.SafeRun (s : State) : Prop := ∀ n, ∃ t, Host.Core.run Sys2Proof.core n s = .next t ∧ State.Inv t

/-! ### Curve points, in the model's own FP2 functions (44_edwards.md R113, R114, R119) -/

/-- Equal after `FP2.CANON` (43_fp2.md R111). -/
abbrev Fp2Eq (a b : Fp2) : Prop := fp2Canon a = fp2Canon b

/-- The invariant `T/Z = (X/Z)(Y/Z)` of 10_state.md R23 with `T = Ta*Tb`, cleared of denominators: `Ta*Tb*Z = X*Y`. -/
def SegreInv (P : EdPoint) : Prop := Fp2Eq (fp2Mul (fp2Mul P.Ta P.Tb) P.Z) (fp2Mul P.X P.Y)

/-- The curve `-x^2 + y^2 = 1 + d*x^2*y^2` of R113 in these coordinates: `Y^2 - X^2 = Z^2 + d*T^2`. -/
def OnCurve (d : Fp2) (P : EdPoint) : Prop :=
  Fp2Eq (fp2Sub (fp2Sqr P.Y) (fp2Sqr P.X)) (fp2Add (fp2Sqr P.Z) (fp2Mul d (fp2Sqr (fp2Mul P.Ta P.Tb))))

/-- The table entry of a point by R114: `(Y + X, Y - X, 2*Z, 2*d*T)`. -/
def entryOf (d : Fp2) (P : EdPoint) : EdEntry :=
  { sumYX := fp2Add P.Y P.X, diffYX := fp2Sub P.Y P.X, doubledZ := fp2Add P.Z P.Z,
    doubledTProduct := fp2Mul (fp2Add d d) (fp2Mul P.Ta P.Tb) }

end Sys2Proof.Machine
end

