-- ==== Sys2Proof/Certificates/Slice0/Obligations.lean ====
section
/-! DEFINITION. The statements for the provers: what the rules of the spec say the machine does.
A statement that rests on a choice of the model says so in its docstring and names the log entry. -/

open Sys2Proof Sys2Proof.Machine
open Sys2Proof.Config (P127 LadderParams)

/-! ### Encoding -/

/-- Decoding an encoded well-formed command gives it back, with every operand at every value and both flags. -/
def Obligations.DecodeOfEncodeIsIdentity : Prop :=
  ∀ i : Instr, i.WellFormed → decode (encode i) = .ok i

/-- A frame the decoder accepts is exactly the frame its command encodes to: no bit of the word and no operand word is
dropped, whatever the number of operand words. -/
def Obligations.EncodeOfDecodeIsIdentity : Prop :=
  ∀ (f : CommandFrame) (i : Instr), decode f = .ok i → encode i = f

/-- The decoder accepts exactly the 44 legal command words, which are the words the check of R146 lets pass. -/
def Obligations.LegalCommandWordsAreThe44 : Prop :=
  (opcodeColumn ++ flagColumn.map (· + 0x100)).length = 44 ∧
  ∀ f : CommandFrame,
    ((∃ i, decode f = .ok i) ↔ f.cw.toNat ∈ opcodeColumn ++ flagColumn.map (· + 0x100)) ∧
    ((∃ i, decode f = .ok i) ↔ ¬ IllegalWord f.cw)

/-- A command read from a frame is well-formed exactly when the frame carries `INW(op)` operand words. -/
def Obligations.WellFormedIffOperandCount : Prop :=
  ∀ (f : CommandFrame) (i : Instr), decode f = .ok i →
    (i.WellFormed ↔ f.payload.length = (frameWords (f.cw.toNat % 2 ^ 8)).1)

/-- A few frames written out from the columns of R47 decode to the commands they stand for (a sanity statement). -/
def Obligations.SampleFramesDecode : Prop :=
  decode ⟨0x0000000000000001, []⟩ = .ok (.sysSelimpl []) ∧
  decode ⟨0x0000000000000112, [1, 2, 3, 4]⟩ = .ok (.lv2Csel true [1, 2] [3, 4]) ∧
  decode ⟨0x0000000000000030, [0xFFFFFFFFFFFFFFFE, 0x7FFFFFFFFFFFFFFF, 1, 0]⟩ =
    .ok (.f127Add [0xFFFFFFFFFFFFFFFE, 0x7FFFFFFFFFFFFFFF] [1, 0]) ∧
  decode ⟨0x0000000000000053, [1, 2, 3, 4, 5, 6, 7, 8]⟩ = .ok (.fp2Mul ⟨[1, 2], [3, 4]⟩ ⟨[5, 6], [7, 8]⟩) ∧
  decode ⟨0x0000000000000130, []⟩ = .error .flagNotTaken ∧
  decode ⟨0x0000000000000014, []⟩ = .error .unassignedOpcode ∧
  decode ⟨0x8000000000000030, []⟩ = .error .reservedBits

/-- The byte image of frame words: byte `k` of word `i` is bits `8k+7:8k` of it, at byte `8i+k`; the image is read back
to the words it came from, and an image is read exactly when it is a whole number of 64-bit words. -/
def Obligations.ByteImageIsLittleEndian : Prop :=
  (∀ (ws : List Word) (i k : Nat) (w : Word), ws[i]? = some w → k < 8 →
    (bytesOfWords ws)[8 * i + k]? = some (w.extractLsb' (8 * k) 8)) ∧
  (∀ ws : List Word, (bytesOfWords ws).length = 8 * ws.length ∧ wordsOfBytes (bytesOfWords ws) = some ws) ∧
  (∀ (bs : List Byte) (ws : List Word), wordsOfBytes bs = some ws → bytesOfWords ws = bs) ∧
  (∀ bs : List Byte, (∃ ws, wordsOfBytes bs = some ws) ↔ bs.length % 8 = 0)

/-! ### One step -/

/-- A step runs the command it decodes, on the state from which the frame has been taken; `withFetchWord` puts a
command where the next step takes it. -/
def Obligations.StepRunsTheDecodedCommand : Prop :=
  (∀ (s : State) (f : CommandFrame) (rest : List Input) (i : Instr),
    s.inputs = .command f :: rest → decode f = .ok i → step s = exec i { s with inputs := rest }) ∧
  (∀ (s : State) (nbits w : Nat) (i : Instr),
    decodeTableWord nbits w = some i → step (s.withFetchWord nbits w) = exec i s)

/-- With nothing sent CORE is idle and nothing changes (the step of an idle machine is the model's, log entry 2). -/
def Obligations.IdleKeepsEverything : Prop :=
  ∀ s : State, s.inputs = [] → step s = .next s

/-- An illegal command word, with any payload, is answered by the one word with `STATUS` = 1 and `CF` = 0 and changes
nothing; an empty frame cannot be formed. -/
def Obligations.IllegalWordIsAnsweredIllegal : Prop :=
  (∀ (s : State) (f : CommandFrame) (rest : List Input), s.inputs = .command f :: rest → IllegalWord f.cw →
    step s = .next
      { cfg := s.cfg, inputs := rest,
        responses := s.responses ++
          [{ sw := BitVec.ofNat 64 (1 + s.cfg.implSel.toNat * 2 ^ 9 + s.cfg.selDone.toNat * 2 ^ 10),
             results := [] }] }) ∧
  frameOfBytes [] = none

/-- A legal command word with any other number of operand words than `INW(op)`, too short or too long, is answered by
the one word with `STATUS` = 2 and `CF` = 0 and changes nothing, `SYS.SELIMPL` with surplus words included. -/
def Obligations.WrongLengthIsAnsweredBadLen : Prop :=
  ∀ (s : State) (f : CommandFrame) (rest : List Input), s.inputs = .command f :: rest → ¬ IllegalWord f.cw →
    f.payload.length ≠ (frameWords (f.cw.toNat % 2 ^ 8)).1 →
    step s = .next
      { cfg := s.cfg, inputs := rest,
        responses := s.responses ++
          [{ sw := BitVec.ofNat 64 (2 + s.cfg.implSel.toNat * 2 ^ 9 + s.cfg.selDone.toNat * 2 ^ 10),
             results := [] }] }

/-- Every frame gets exactly one response: `ILLEGAL` alone, `BADLEN` alone, or `OK` with `OUTW(op)` result words, as
R49 sorts frames. -/
def Obligations.EveryFrameGetsOneResponse : Prop :=
  ∀ (s : State) (f : CommandFrame) (rest : List Input), s.inputs = .command f :: rest →
    ∃ t r, step s = .next t ∧ t.inputs = rest ∧ t.responses = s.responses ++ [r] ∧
      (IllegalWord f.cw → swStatus r.sw = 1 ∧ r.results.length = 0) ∧
      (¬ IllegalWord f.cw → f.payload.length ≠ (frameWords (f.cw.toNat % 2 ^ 8)).1 →
        swStatus r.sw = 2 ∧ r.results.length = 0) ∧
      (¬ IllegalWord f.cw → f.payload.length = (frameWords (f.cw.toNat % 2 ^ 8)).1 →
        swStatus r.sw = 0 ∧ r.results.length = (frameWords (f.cw.toNat % 2 ^ 8)).2)

/-- The reset input puts `CFG` at its reset value and answers nothing; that the rest of the channel and the responses
the driver has received stay is the model's choice (log entry 10). -/
def Obligations.ResetInputRestoresCfg : Prop :=
  ∀ (s : State) (rest : List Input), s.inputs = .reset :: rest →
    step s = .next { cfg := { implSel := false, selDone := false }, inputs := rest, responses := s.responses }

/-- The status word: its fields at their bits, and that `respond` returns it in front of the result words and changes
nothing else; in every response a step gives, `IMPL` and `SELDONE` show `CFG` after the command, the status is 0, 1 or
2, and `CF` is 1 only with status 0 and only for the four commands that write it. -/
def Obligations.StatusWordFields : Prop :=
  (∀ (s : State) (st : Status) (cf : Bool) (out : List Word),
    s.respond st cf out =
      { cfg := s.cfg, inputs := s.inputs,
        responses := s.responses ++ [{ sw := statusWord st cf s.cfg, results := out }] }) ∧
  (∀ (st : Status) (cf : Bool) (cfg : Cfg),
    swStatus (statusWord st cf cfg) = (match st with | .ok => 0 | .illegal => 1 | .badLen => 2) ∧
    swCf (statusWord st cf cfg) = cf ∧ swImpl (statusWord st cf cfg) = cfg.implSel ∧
    swSelDone (statusWord st cf cfg) = cfg.selDone ∧
    (statusWord st cf cfg).toNat / 2 ^ 11 = 0) ∧
  (∀ (s t : State) (r : ResponseFrame), step s = .next t → t.responses = s.responses ++ [r] →
    swImpl r.sw = t.cfg.implSel ∧ swSelDone r.sw = t.cfg.selDone ∧ swStatus r.sw ≤ 2 ∧ r.sw.toNat / 2 ^ 11 = 0 ∧
    (swCf r.sw = true → swStatus r.sw = 0 ∧
      ∃ f rest, s.inputs = .command f :: rest ∧ f.cw.toNat ∈ [0x10, 0x11, 0x20, 0x21]))

/-! ### Whole-machine rules -/

/-- Commands are executed in order and answered in the same order; the answer to each is the answer of a CORE that
knows the command and `CFG` as its predecessors left it and nothing else; results and `CF` do not even depend on
`CFG`. -/
def Obligations.ResponsesAreServedInOrder : Prop :=
  (∀ (s : State) (fs : List CommandFrame) (rest : List Input),
    Host.Core.run Sys2Proof.core fs.length (s.sent fs rest) =
      .next { cfg := (serve s.cfg fs).1, inputs := rest, responses := s.responses ++ (serve s.cfg fs).2 } ∧
    (serve s.cfg fs).2.length = fs.length) ∧
  (∀ (c c' : Cfg) (f : CommandFrame),
    (answerAlone c f).2.map (fun r => (r.results, r.sw.toNat % 2 ^ 9)) =
      (answerAlone c' f).2.map (fun r => (r.results, r.sw.toNat % 2 ^ 9)))

/-- Path equivalence: for every frame, in any two states whatever, whatever `CFG.IMPL_SEL`, the result words, the
status and `CF` are the same. -/
def Obligations.BothPathsGiveTheSameBits : Prop :=
  ∀ (s s' t t' : State) (f : CommandFrame) (rest rest' : List Input),
    s.inputs = .command f :: rest → s'.inputs = .command f :: rest' → step s = .next t → step s' = .next t' →
    ∃ r r', t.responses = s.responses ++ [r] ∧ t'.responses = s'.responses ++ [r'] ∧
      r.results = r'.results ∧ swStatus r.sw = swStatus r'.sw ∧ swCf r.sw = swCf r'.sw

/-- Errors leave no trace: a command after an errored frame is executed as if that frame had not been sent. -/
def Obligations.ErrorsLeaveNoTrace : Prop :=
  ∀ (s t u : State) (f g : CommandFrame) (rest : List Input),
    (IllegalWord f.cw ∨ f.payload.length ≠ (frameWords (f.cw.toNat % 2 ^ 8)).1) →
    Host.Core.run Sys2Proof.core 2 (s.sent [f, g] rest) = .next t →
    Host.Core.run Sys2Proof.core 1 (s.sent [g] rest) = .next u →
    t.cfg = u.cfg ∧ t.inputs = u.inputs ∧
      ∃ e r, t.responses = s.responses ++ [e, r] ∧ u.responses = s.responses ++ [r]

/-- Only the first `SYS.SELIMPL` and the reset input change `CFG`. -/
def Obligations.OnlySelimplAndResetChangeCfg : Prop :=
  ∀ s t : State, step s = .next t → t.cfg ≠ s.cfg →
    (∃ rest, s.inputs = .reset :: rest) ∨
    (∃ rest, s.inputs = .command { cw := 1, payload := [] } :: rest ∧ s.cfg.selDone = false)

/-- The invariant holds right after reset. -/
def Obligations.InvariantAtReset : Prop := State.Inv State.reset

/-- Every step keeps the invariant: `CFG` a legal value, and every response a legal response frame. -/
def Obligations.EveryStepKeepsInvariant : Prop :=
  ∀ s t : State, State.Inv s → step s = .next t → State.Inv t

/-- From every state that meets the invariant, with any inputs pending, every run goes on and stays in it. -/
def Obligations.EveryRunIsSafe : Prop := ∀ s : State, State.Inv s → State.SafeRun s

/-- `CFG` after reset. -/
def Obligations.CfgAfterReset : Prop :=
  State.reset.cfg.implSel = false ∧ State.reset.cfg.selDone = false

/-! ### SYS -/

/-- `SYS.SELIMPL`: the first one copies `HAS_MAC` and sets `SEL_DONE`, a later one changes nothing, and the response
shows `CFG` after the update; surplus words are `BADLEN` and `FLAG` = 1 is illegal. -/
def Obligations.SelimplSelectsOnce : Prop :=
  (∀ ws, decode ⟨0x01, ws⟩ = .ok (.sysSelimpl ws) ∧ decode ⟨0x101, ws⟩ = .error .flagNotTaken) ∧
  ∀ s : State,
    (s.cfg.selDone = false → exec (.sysSelimpl []) s = .next
      { cfg := { implSel := Config.HAS_MAC, selDone := true }, inputs := s.inputs,
        responses := s.responses ++
          [{ sw := BitVec.ofNat 64 (0x400 + Config.HAS_MAC.toNat * 0x200), results := [] }] }) ∧
    (s.cfg.selDone = true → exec (.sysSelimpl []) s = .next
      { s with responses := s.responses ++
          [{ sw := BitVec.ofNat 64 (0x400 + s.cfg.implSel.toNat * 0x200), results := [] }] }) ∧
    (∀ ws, ws ≠ [] → exec (.sysSelimpl ws) s = .next
      { s with responses := s.responses ++
          [{ sw := BitVec.ofNat 64 (2 + s.cfg.implSel.toNat * 0x200 + s.cfg.selDone.toNat * 0x400), results := [] }] })

/-- After the selection no command changes `CFG`, in a run of any length; only reset does; a later `SYS.SELIMPL` answers
`OK` with `CFG` as it is. -/
def Obligations.SelectionIsPermanentUntilReset : Prop :=
  (∀ (n : Nat) (s t : State), s.cfg.selDone = true → Input.reset ∉ s.inputs →
    Host.Core.run Sys2Proof.core n s = .next t → t.cfg = s.cfg) ∧
  (∀ s : State, s.cfg.selDone = true → exec (.sysSelimpl []) s = .next (s.respond .ok false []))

/-- The latency of a command is a function of its opcode and of `CFG.IMPL_SEL`: of no operand word, not of `FLAG`, and
not of whether an operand is inside its working domain. -/
def Obligations.LatencyIsPublic : Prop :=
  ∀ (i j : Instr) (s t : State), i.op = j.op → s.cfg.implSel = t.cfg.implSel → latency i s = latency j t

/-- No secret of a legal frame (its operand words, its `FLAG`) reaches `CFG`, the status or the length of the
response: two frames of one opcode leave the same of each. -/
def Obligations.SecretsDoNotReachPublicOutcome : Prop :=
  ∀ (s : State) (f g : CommandFrame) (rest : List Input), ¬ IllegalWord f.cw → ¬ IllegalWord g.cw →
    f.cw.toNat % 2 ^ 8 = g.cw.toNat % 2 ^ 8 → f.payload.length = g.payload.length →
    ∃ t u r q, step (s.sent [f] rest) = .next t ∧ step (s.sent [g] rest) = .next u ∧ t.cfg = u.cfg ∧
      t.inputs = u.inputs ∧ t.responses = s.responses ++ [r] ∧ u.responses = s.responses ++ [q] ∧
      swStatus r.sw = swStatus q.sw ∧ r.results.length = q.results.length

/-! ### LV -/

/-- `LV2.ADD` and `LV6.ADD`: the sum modulo 2^128 or 2^384, and the final carry in `CF`; `FLAG` must be 0. -/
def Obligations.LvAddGivesSumAndCarry : Prop :=
  (∀ a b : List Limb, a.length = 2 → b.length = 2 →
    decode ⟨0x10, a ++ b⟩ = .ok (.lv2Add a b) ∧ decode ⟨0x110, a ++ b⟩ = .error .flagNotTaken ∧
    ∀ s : State, ∃ r cf, exec (.lv2Add a b) s = .next (s.respond .ok cf r) ∧ r.length = 2 ∧
      val r = (val a + val b) % 2 ^ 128 ∧ cf.toNat = (val a + val b) / 2 ^ 128) ∧
  (∀ a b : List Limb, a.length = 6 → b.length = 6 →
    decode ⟨0x20, a ++ b⟩ = .ok (.lv6Add a b) ∧ decode ⟨0x120, a ++ b⟩ = .error .flagNotTaken ∧
    ∀ s : State, ∃ r cf, exec (.lv6Add a b) s = .next (s.respond .ok cf r) ∧ r.length = 6 ∧
      val r = (val a + val b) % 2 ^ 384 ∧ cf.toNat = (val a + val b) / 2 ^ 384)

/-- `LV2.SUB` and `LV6.SUB`: the difference modulo 2^128 or 2^384, and the final borrow in `CF`, 1 exactly when
`a < b`; `FLAG` must be 0. -/
def Obligations.LvSubGivesDifferenceAndBorrow : Prop :=
  (∀ a b : List Limb, a.length = 2 → b.length = 2 →
    decode ⟨0x11, a ++ b⟩ = .ok (.lv2Sub a b) ∧ decode ⟨0x111, a ++ b⟩ = .error .flagNotTaken ∧
    ∀ s : State, ∃ r cf, exec (.lv2Sub a b) s = .next (s.respond .ok cf r) ∧ r.length = 2 ∧
      (val r : Int) = ((val a : Int) - val b) % 2 ^ 128 ∧ (cf = true ↔ val a < val b)) ∧
  (∀ a b : List Limb, a.length = 6 → b.length = 6 →
    decode ⟨0x21, a ++ b⟩ = .ok (.lv6Sub a b) ∧ decode ⟨0x121, a ++ b⟩ = .error .flagNotTaken ∧
    ∀ s : State, ∃ r cf, exec (.lv6Sub a b) s = .next (s.respond .ok cf r) ∧ r.length = 6 ∧
      (val r : Int) = ((val a : Int) - val b) % 2 ^ 384 ∧ (cf = true ↔ val a < val b))

/-- `LV2.CSEL`, `LV2.CSWAP`, `LV6.CSEL`, `LV6.CSWAP`: "flag? a : b", and the exchange of `a` and `b` when the flag
is 1; every bit pattern passes unchanged. -/
def Obligations.LvSelectAndSwap : Prop :=
  (∀ (f : Bool) (a b : List Limb), a.length = 2 → b.length = 2 →
    decode ⟨0x12 + (if f then 0x100 else 0), a ++ b⟩ = .ok (.lv2Csel f a b) ∧
    decode ⟨0x13 + (if f then 0x100 else 0), a ++ b⟩ = .ok (.lv2Cswap f a b) ∧
    ∀ s : State, exec (.lv2Csel f a b) s = .next (s.respond .ok false (if f then a else b)) ∧
      exec (.lv2Cswap f a b) s = .next (s.respond .ok false (if f then b ++ a else a ++ b))) ∧
  (∀ (f : Bool) (a b : List Limb), a.length = 6 → b.length = 6 →
    decode ⟨0x22 + (if f then 0x100 else 0), a ++ b⟩ = .ok (.lv6Csel f a b) ∧
    decode ⟨0x23 + (if f then 0x100 else 0), a ++ b⟩ = .ok (.lv6Cswap f a b) ∧
    ∀ s : State, exec (.lv6Csel f a b) s = .next (s.respond .ok false (if f then a else b)) ∧
      exec (.lv6Cswap f a b) s = .next (s.respond .ok false (if f then b ++ a else a ++ b)))

/-- The laws of R68, at both widths. -/
def Obligations.LvLaws : Prop :=
  ∀ (n : Nat), n = 2 ∨ n = 6 → ∀ a b : List Limb, a.length = n → b.length = n →
    val (lvAdd n a b).1 + (lvAdd n a b).2.toNat * 2 ^ (64 * n) = val a + val b ∧
    (val (lvSub n a b).1 : Int) - (lvSub n a b).2.toNat * 2 ^ (64 * n) = val a - val b ∧
    lvAdd n a b = lvAdd n b a ∧
    lvSub n a a = (vec n 0, false) ∧
    lvSub n (lvAdd n a b).1 b = (a, (lvAdd n a b).2) ∧
    (∀ f : Bool, selN f a a = a ∧
      lvCswap f (lvCswap f a b).1 (lvCswap f a b).2 = (a, b) ∧
      (lvCswap f a b).1 = selN f b a ∧ (lvCswap f a b).2 = selN f a b)

/-! ### F127 -/

/-- The closed form of two folds: for `v > 0` it is `((v - 1) mod p) + 1`; so it lies in `NR127`, is congruent to `v`,
is 0 only for 0, and `p` exactly for `p` and `2p`; one fold is not enough. -/
def Obligations.TwoFoldsClosedForm : Prop :=
  (∀ v : Nat, v < 2 ^ 128 →
    mod2 v = (if v = 0 then 0 else (v - 1) % P127 + 1) ∧ mod2 v < 2 ^ 127 ∧ mod2 v % P127 = v % P127 ∧
    (mod2 v = 0 ↔ v = 0) ∧ (mod2 v = P127 ↔ v = P127 ∨ v = 2 * P127)) ∧
  fold127 (2 ^ 128 - 1) = 2 ^ 127

/-- `F127.ADD`: the 2-limb sum with the carry out of limb 1 discarded, then two folds; on `NR127` congruent to the
sum; outside, where the carry is lost, congruent to the sum less 2; `FLAG` must be 0. -/
def Obligations.F127AddResult : Prop :=
  ∀ a b : List Limb, a.length = 2 → b.length = 2 →
    decode ⟨0x30, a ++ b⟩ = .ok (.f127Add a b) ∧ decode ⟨0x130, a ++ b⟩ = .error .flagNotTaken ∧
    ∀ s : State, ∃ r, exec (.f127Add a b) s = .next (s.respond .ok false r) ∧ r.length = 2 ∧ val r < 2 ^ 127 ∧
      val r = (let v := (val a + val b) % 2 ^ 128; if v = 0 then 0 else (v - 1) % P127 + 1) ∧
      (val a + val b < 2 ^ 128 → val r % P127 = (val a + val b) % P127) ∧
      (2 ^ 128 ≤ val a + val b → (val r + 2) % P127 = (val a + val b) % P127)

/-- `F127.NEG`: `p - a` on `NR127`; outside, with `a = 2^127 + a'`, `2^127 - a'`, or 1 for `a' = 0`; `FLAG` must
be 0. -/
def Obligations.F127NegResult : Prop :=
  ∀ a : List Limb, a.length = 2 →
    decode ⟨0x32, a⟩ = .ok (.f127Neg a) ∧ decode ⟨0x132, a⟩ = .error .flagNotTaken ∧
    ∀ s : State, ∃ r, exec (.f127Neg a) s = .next (s.respond .ok false r) ∧ r.length = 2 ∧
      (val a < 2 ^ 127 → val r = P127 - val a) ∧
      (val a = 2 ^ 127 → val r = 1) ∧
      (2 ^ 127 < val a → val r = 2 ^ 128 - val a)

/-- `F127.SUB`: the addition of the negation, bit for bit, for every pattern; on `NR127` congruent to the difference,
and zero only for `0 - p`; `FLAG` must be 0. -/
def Obligations.F127SubResult : Prop :=
  ∀ a b : List Limb, a.length = 2 → b.length = 2 →
    decode ⟨0x31, a ++ b⟩ = .ok (.f127Sub a b) ∧ decode ⟨0x131, a ++ b⟩ = .error .flagNotTaken ∧
    ∀ s : State, exec (.f127Sub a b) s = .next (s.respond .ok false (f127Add a (f127Neg b))) ∧
      (val a < 2 ^ 127 → val b < 2 ^ 127 → ∃ r, exec (.f127Sub a b) s = .next (s.respond .ok false r) ∧
        r.length = 2 ∧ val r < 2 ^ 127 ∧ (val r + val b) % P127 = val a % P127 ∧
        val r = if val a = 0 ∧ val b = P127 then 0 else (val a + P127 - val b - 1) % P127 + 1)

/-- `F127.MUL` and `F127.SQR`: for every pattern the fold of the exact product that R75 writes; on `NR127` 0 when an
operand is 0 and otherwise `((a*b - 1) mod p) + 1`; squaring is multiplication by itself; `FLAG` must be 0. -/
def Obligations.F127MulAndSqrResult : Prop :=
  (∀ a b : List Limb, a.length = 2 → b.length = 2 →
    decode ⟨0x33, a ++ b⟩ = .ok (.f127Mul a b) ∧ decode ⟨0x133, a ++ b⟩ = .error .flagNotTaken ∧
    ∀ s : State, ∃ r, exec (.f127Mul a b) s = .next (s.respond .ok false r) ∧ r.length = 2 ∧ val r < 2 ^ 127 ∧
      val r = (let T := val a * val b; let L := T % 2 ^ 128; let H := T / 2 ^ 128
        let V := (L % 2 ^ 127 + L / 2 ^ 127 + 2 * H % 2 ^ 128) % 2 ^ 128
        if V = 0 then 0 else (V - 1) % P127 + 1) ∧
      (val a < 2 ^ 127 → val b < 2 ^ 127 →
        val r = (if val a = 0 ∨ val b = 0 then 0 else (val a * val b - 1) % P127 + 1) ∧
        val r % P127 = val a * val b % P127)) ∧
  (∀ a : List Limb, a.length = 2 →
    decode ⟨0x34, a⟩ = .ok (.f127Sqr a) ∧ decode ⟨0x134, a⟩ = .error .flagNotTaken ∧
    ∀ s : State, exec (.f127Sqr a) s = exec (.f127Mul a a) s)

/-- `F127.CSEL` passes the selected operand bit for bit, in or out of `NR127`; `F127.CANON` subtracts `p` once from a
value that is not below `p`, so that on `LAZY127` it gives the canonical form. -/
def Obligations.F127SelectAndCanon : Prop :=
  (∀ (f : Bool) (a b : List Limb), a.length = 2 → b.length = 2 →
    decode ⟨0x35 + (if f then 0x100 else 0), a ++ b⟩ = .ok (.f127Csel f a b) ∧
    ∀ s : State, exec (.f127Csel f a b) s = .next (s.respond .ok false (if f then a else b))) ∧
  (∀ a : List Limb, a.length = 2 →
    decode ⟨0x36, a⟩ = .ok (.f127Canon a) ∧ decode ⟨0x136, a⟩ = .error .flagNotTaken ∧
    ∀ s : State, ∃ r, exec (.f127Canon a) s = .next (s.respond .ok false r) ∧ r.length = 2 ∧
      val r = (if val a < P127 then val a else val a - P127) ∧
      (val a < 2 * P127 → val r < P127 ∧ val r = val a % P127))

/-- `NR127` is the invariant range of the unit: on it every result is in it and congruent to the exact one, and
`CANON` maps it into `CAN127`. -/
def Obligations.F127RangeClosure : Prop :=
  ∀ a b : List Limb, NR127 a → NR127 b →
    NR127 (f127Add a b) ∧ NR127 (f127Sub a b) ∧ NR127 (f127Neg a) ∧ NR127 (f127Mul a b) ∧ NR127 (f127Sqr a) ∧
    CAN127 (f127Canon a) ∧ (∀ f : Bool, selN f a b = a ∨ selN f a b = b) ∧
    val (f127Add a b) % P127 = (val a + val b) % P127 ∧
    (val (f127Sub a b) + val b) % P127 = val a % P127 ∧
    (val (f127Neg a) + val a) % P127 = 0 ∧
    val (f127Mul a b) % P127 = val a * val b % P127 ∧
    val (f127Sqr a) % P127 = val a * val a % P127

/-- The field laws of R84, as equations between canonical forms, and bit for bit where R84 says so. -/
def Obligations.F127FieldLaws : Prop :=
  ∀ a b c : List Limb, NR127 a → NR127 b → NR127 c →
    f127Add a b = f127Add b a ∧ f127Mul a b = f127Mul b a ∧ f127Mul a a = f127Sqr a ∧
    f127Add a (f127Neg a) = vec 2 P127 ∧ f127Canon (vec 2 P127) = vec 2 0 ∧
    f127Canon (f127Mul a (f127Add b c)) = f127Canon (f127Add (f127Mul a b) (f127Mul a c)) ∧
    f127Canon (f127Add (f127Add a b) c) = f127Canon (f127Add a (f127Add b c)) ∧
    f127Mul a (vec 2 1) = a

/-! ### F384 -/

/-- `NPRIME384` is the one number below 2^384 with `p * n` congruent to -1 modulo 2^384, and its lowest limb is the
64-bit constant of the limb-serial form; the constants of R99 for the default prime. -/
def Obligations.MontgomeryConstant : Prop :=
  ((P384 * nprime384 P384 + 1) % 2 ^ 384 = 0 ∧ nprime384 P384 < 2 ^ 384 ∧
    (∀ n : Nat, n < 2 ^ 384 → (P384 * n + 1) % 2 ^ 384 = 0 → n = nprime384 P384) ∧
    (P384 * (nprime384 P384 % 2 ^ 64) + 1) % 2 ^ 64 = 0) ∧
  vec 6 (nprime384 Config.P384_DEFAULT) =
    [0x0000000100000001, 0x0000000000000001, 0xFFFFFFFBFFFFFFFE, 0xFFFFFFFCFFFFFFFA, 0x0000000C00000002,
      0x0000001400000014]

/-- Montgomery reduction: the low 384 bits of the sum are zero, the result has at most 385 bits and is congruent to
`T * 2^-384`. -/
def Obligations.MontgomeryReduction : Prop :=
  ∀ T : Nat, T < 2 ^ 768 →
    redcM P384 T = T % 2 ^ 384 * nprime384 P384 % 2 ^ 384 ∧ redcM P384 T < 2 ^ 384 ∧
    T + redcM P384 T * P384 < 2 ^ 768 + 2 ^ 384 * P384 ∧
    (T + redcM P384 T * P384) % 2 ^ 384 = 0 ∧
    redc P384 T = (T + redcM P384 T * P384) / 2 ^ 384 ∧
    redc P384 T < 2 ^ 385 ∧
    redc P384 T * 2 ^ 384 % P384 = T % P384

/-- The multiplier of the reduction is unique, so that every way to reduce computes the same `REDC(T)`. -/
def Obligations.ReductionMultiplierIsUnique : Prop :=
  ∀ T m : Nat, T < 2 ^ 768 → m < 2 ^ 384 → (T + m * P384) % 2 ^ 384 = 0 →
    m = redcM P384 T ∧ (T + m * P384) / 2 ^ 384 = redc P384 T

/-- The bound of R88: for `T < p * 2^384`, which a product of a canonical and any 6-limb value meets, the reduced value is
below `2p`, and the final subtraction makes it canonical; for any 768-bit `T` it is below `2^384 + p`. -/
def Obligations.ReductionBound : Prop :=
  (∀ T : Nat, T < P384 * 2 ^ 384 → redc P384 T < 2 * P384 ∧ gfpCarry P384 (redc P384 T) < P384 ∧
    gfpCarry P384 (redc P384 T) * 2 ^ 384 % P384 = T % P384) ∧
  (∀ a b : Nat, a < P384 → b < 2 ^ 384 → a * b < P384 * 2 ^ 384) ∧
  (∀ T : Nat, T < 2 ^ 768 → redc P384 T < 2 ^ 384 + P384)

/-- `F384.MUL` and `F384.SQR`: the Montgomery product, congruent to `a*b*2^-384` for every pattern, canonical whenever
`a*b < p*2^384`, symmetric; squaring is multiplication by itself; `FLAG` must be 0. -/
def Obligations.F384MulAndSqrResult : Prop :=
  (∀ a b : List Limb, a.length = 6 → b.length = 6 →
    decode ⟨0x43, a ++ b⟩ = .ok (.f384Mul a b) ∧ decode ⟨0x143, a ++ b⟩ = .error .flagNotTaken ∧
    ∀ s : State, ∃ r, exec (.f384Mul a b) s = .next (s.respond .ok false r) ∧
      exec (.f384Mul b a) s = .next (s.respond .ok false r) ∧ r.length = 6 ∧
      val r = (let T := val a * val b; let m := T % 2 ^ 384 * nprime384 P384 % 2 ^ 384
        let t := (T + m * P384) / 2 ^ 384
        (if t < P384 then t else t - P384) % 2 ^ 384) ∧
      val r * 2 ^ 384 % P384 = val a * val b % P384 ∧
      (val a * val b < P384 * 2 ^ 384 → val r < P384)) ∧
  (∀ a : List Limb, a.length = 6 →
    decode ⟨0x44, a⟩ = .ok (.f384Sqr a) ∧ decode ⟨0x144, a⟩ = .error .flagNotTaken ∧
    ∀ s : State, exec (.f384Sqr a) s = exec (.f384Mul a a) s)

/-- `F384.ADD`, `F384.SUB`, `F384.NEG`: for every pattern the truncated results R91 to R93 write, on `CAN384` the
field's sum, difference and negation, canonical, and beyond it still congruent as far as R98 says; `FLAG` must be 0. -/
def Obligations.F384AddSubNegResult : Prop :=
  (∀ a b : List Limb, a.length = 6 → b.length = 6 →
    decode ⟨0x40, a ++ b⟩ = .ok (.f384Add a b) ∧ decode ⟨0x140, a ++ b⟩ = .error .flagNotTaken ∧
    decode ⟨0x41, a ++ b⟩ = .ok (.f384Sub a b) ∧ decode ⟨0x141, a ++ b⟩ = .error .flagNotTaken ∧
    ∀ s : State,
      (∃ r, exec (.f384Add a b) s = .next (s.respond .ok false r) ∧ r.length = 6 ∧
        val r = (if val a + val b < P384 then val a + val b else val a + val b - P384) % 2 ^ 384 ∧
        (val a + val b < 2 ^ 384 + P384 → val r % P384 = (val a + val b) % P384) ∧
        (val a < P384 → val b < P384 → val r = (val a + val b) % P384)) ∧
      (∃ r, exec (.f384Sub a b) s = .next (s.respond .ok false r) ∧ r.length = 6 ∧
        val r = (if val a < val b then (val a + 2 ^ 384 - val b + P384) % 2 ^ 384 else val a - val b) ∧
        (val b ≤ val a + P384 → (val r + val b) % P384 = val a % P384) ∧
        (val a < P384 → val b < P384 → val r = (val a + P384 - val b) % P384))) ∧
  (∀ a : List Limb, a.length = 6 →
    decode ⟨0x42, a⟩ = .ok (.f384Neg a) ∧ decode ⟨0x142, a⟩ = .error .flagNotTaken ∧
    ∀ s : State, ∃ r, exec (.f384Neg a) s = .next (s.respond .ok false r) ∧ r.length = 6 ∧
      exec (.f384Sub (vec 6 0) a) s = .next (s.respond .ok false r) ∧
      (val a = 0 → val r = 0) ∧ (0 < val a → val a < P384 → val r = P384 - val a))

/-- `F384.CSEL` passes the selected operand unchanged; `F384.CANON` gives `a mod p` for every 6-limb value, so it is
idempotent and the identity on `CAN384`. -/
def Obligations.F384SelectAndCanon : Prop :=
  (∀ (f : Bool) (a b : List Limb), a.length = 6 → b.length = 6 →
    decode ⟨0x45 + (if f then 0x100 else 0), a ++ b⟩ = .ok (.f384Csel f a b) ∧
    ∀ s : State, exec (.f384Csel f a b) s = .next (s.respond .ok false (if f then a else b))) ∧
  (∀ a : List Limb, a.length = 6 →
    decode ⟨0x46, a⟩ = .ok (.f384Canon a) ∧ decode ⟨0x146, a⟩ = .error .flagNotTaken ∧
    ∀ s : State, ∃ r, exec (.f384Canon a) s = .next (s.respond .ok false r) ∧ r.length = 6 ∧
      val r = val a % P384 ∧ exec (.f384Canon r) s = .next (s.respond .ok false r) ∧
      (val a < P384 → r = a))

/-- Montgomery form: with `M(x) = x*R mod p`, the product of forms is the form of the product, multiplying by
`R^2 mod p` enters the form and multiplying by 1 leaves it, and the other commands act the same on forms. -/
def Obligations.MontgomeryFormIsARingMap : Prop :=
  let M : Nat → List Limb := fun x => vec 6 (x * 2 ^ 384 % P384)
  ∀ x y : Nat,
    f384Mul P384 (M x) (M y) = M (x * y) ∧
    f384Mul P384 (vec 6 (x % P384)) (vec 6 (2 ^ 384 * 2 ^ 384 % P384)) = M x ∧
    f384Mul P384 (M x) (vec 6 1) = vec 6 (x % P384) ∧
    f384Add P384 (M x) (M y) = M (x + y) ∧
    f384Sub P384 (M (x + y)) (M y) = M x ∧
    f384Add P384 (M x) (f384Neg P384 (M x)) = M 0 ∧
    f384Canon P384 (M x) = M x ∧
    (∀ f : Bool, selN f (M x) (M y) = M (if f then x else y))

/-- F384 values stay canonical: on `CAN384` every result is in `CAN384`. -/
def Obligations.F384RangeClosure : Prop :=
  ∀ a b : List Limb, CAN384 P384 a → CAN384 P384 b →
    CAN384 P384 (f384Add P384 a b) ∧ CAN384 P384 (f384Sub P384 a b) ∧ CAN384 P384 (f384Neg P384 a) ∧
    CAN384 P384 (f384Mul P384 a b) ∧ CAN384 P384 (f384Sqr P384 a) ∧ CAN384 P384 (f384Canon P384 a) ∧
    (∀ f : Bool, selN f a b = a ∨ selN f a b = b)

/-! ### FP2 -/

/-- `FP2.ADD`, `FP2.SUB`, `FP2.NEG`, `FP2.CSEL`, `FP2.CANON`: the F127 functions componentwise, one flag for both
components. -/
def Obligations.Fp2ComponentwiseCommands : Prop :=
  (∀ a b : Fp2, isFp2 a = true → isFp2 b = true →
    decode ⟨0x50, a.a0 ++ a.a1 ++ (b.a0 ++ b.a1)⟩ = .ok (.fp2Add a b) ∧
    decode ⟨0x51, a.a0 ++ a.a1 ++ (b.a0 ++ b.a1)⟩ = .ok (.fp2Sub a b) ∧
    (∀ ws, decode ⟨0x150, ws⟩ = .error .flagNotTaken ∧ decode ⟨0x151, ws⟩ = .error .flagNotTaken) ∧
    ∀ s : State,
      exec (.fp2Add a b) s = .next (s.respond .ok false (f127Add a.a0 b.a0 ++ f127Add a.a1 b.a1)) ∧
      exec (.fp2Sub a b) s = .next (s.respond .ok false (f127Sub a.a0 b.a0 ++ f127Sub a.a1 b.a1)) ∧
      ∀ f : Bool, decode ⟨0x55 + (if f then 0x100 else 0), a.a0 ++ a.a1 ++ (b.a0 ++ b.a1)⟩ = .ok (.fp2Csel f a b) ∧
        exec (.fp2Csel f a b) s =
          .next (s.respond .ok false (if f then a.a0 ++ a.a1 else b.a0 ++ b.a1))) ∧
  (∀ a : Fp2, isFp2 a = true →
    decode ⟨0x52, a.a0 ++ a.a1⟩ = .ok (.fp2Neg a) ∧ decode ⟨0x56, a.a0 ++ a.a1⟩ = .ok (.fp2Canon a) ∧
    (∀ ws, decode ⟨0x152, ws⟩ = .error .flagNotTaken ∧ decode ⟨0x156, ws⟩ = .error .flagNotTaken) ∧
    ∀ s : State,
      exec (.fp2Neg a) s = .next (s.respond .ok false (f127Neg a.a0 ++ f127Neg a.a1)) ∧
      exec (.fp2Canon a) s = .next (s.respond .ok false (f127Canon a.a0 ++ f127Canon a.a1)))

/-- `FP2.MUL`: the four-product form bit for bit; on the working domain congruent to `a0*b0 - a1*b1` and
`a0*b1 + a1*b0`, and zero in a component only as R105 says; `FLAG` must be 0. -/
def Obligations.Fp2MulResult : Prop :=
  ∀ a b : Fp2, isFp2 a = true → isFp2 b = true →
    decode ⟨0x53, a.a0 ++ a.a1 ++ (b.a0 ++ b.a1)⟩ = .ok (.fp2Mul a b) ∧
    (∀ ws, decode ⟨0x153, ws⟩ = .error .flagNotTaken) ∧
    ∀ s : State, ∃ r : Fp2, exec (.fp2Mul a b) s = .next (s.respond .ok false (r.a0 ++ r.a1)) ∧
      r.a0 = f127Sub (f127Mul a.a0 b.a0) (f127Mul a.a1 b.a1) ∧
      r.a1 = f127Add (f127Mul a.a0 b.a1) (f127Mul a.a1 b.a0) ∧
      r = fp2Mul b a ∧
      (NRFp2 a → NRFp2 b → NRFp2 r ∧
        (val r.a0 : ZMod P127) = val a.a0 * val b.a0 - val a.a1 * val b.a1 ∧
        (val r.a1 : ZMod P127) = val a.a0 * val b.a1 + val a.a1 * val b.a0 ∧
        (val r.a1 = 0 ↔ (val a.a0 = 0 ∨ val b.a1 = 0) ∧ (val a.a1 = 0 ∨ val b.a0 = 0)) ∧
        (val r.a0 = 0 ↔ (val a.a0 = 0 ∨ val b.a0 = 0) ∧ val (f127Mul a.a1 b.a1) = P127))

/-- `FP2.SQR`: the difference-of-squares form bit for bit; congruent to `a0^2 - a1^2` and `2*a0*a1` on the working
domain, and equal to `FP2.MUL` of the value with itself after `FP2.CANON`, though not always before; `FLAG` must
be 0. -/
def Obligations.Fp2SqrResult : Prop :=
  (∀ a : Fp2, isFp2 a = true →
    decode ⟨0x54, a.a0 ++ a.a1⟩ = .ok (.fp2Sqr a) ∧ (∀ ws, decode ⟨0x154, ws⟩ = .error .flagNotTaken) ∧
    ∀ s : State, ∃ r : Fp2, exec (.fp2Sqr a) s = .next (s.respond .ok false (r.a0 ++ r.a1)) ∧
      r.a0 = f127Mul (f127Add a.a0 a.a1) (f127Sub a.a0 a.a1) ∧
      r.a1 = f127Add (f127Mul a.a0 a.a1) (f127Mul a.a0 a.a1) ∧
      (NRFp2 a → NRFp2 r ∧
        (val r.a0 : ZMod P127) = val a.a0 * val a.a0 - val a.a1 * val a.a1 ∧
        (val r.a1 : ZMod P127) = 2 * (val a.a0 * val a.a1) ∧
        Fp2Eq r (fp2Mul a a))) ∧
  fp2Sqr ⟨vec 2 0, vec 2 0⟩ = ⟨vec 2 0, vec 2 0⟩ ∧ fp2Mul ⟨vec 2 0, vec 2 0⟩ ⟨vec 2 0, vec 2 0⟩ = ⟨vec 2 P127, vec 2 0⟩

/-- The three-multiplication form of the imaginary part agrees with the normative one after `CANON` always, and before
it except in the representative of zero, as (1, 0) times (1, 0) shows. -/
def Obligations.KaratsubaFormAgreesAfterCanon : Prop :=
  (∀ a b : Fp2, NRFp2 a → NRFp2 b →
    let k := f127Sub (f127Sub (f127Mul (f127Add a.a0 a.a1) (f127Add b.a0 b.a1)) (f127Mul a.a0 b.a0))
      (f127Mul a.a1 b.a1);
    f127Canon k = f127Canon (fp2Mul a b).a1 ∧
    (k ≠ (fp2Mul a b).a1 → val k % P127 = 0 ∧ val (fp2Mul a b).a1 % P127 = 0)) ∧
  (let one : Fp2 := ⟨vec 2 1, vec 2 0⟩;
    f127Sub (f127Sub (f127Mul (f127Add one.a0 one.a1) (f127Add one.a0 one.a1)) (f127Mul one.a0 one.a0))
      (f127Mul one.a1 one.a1) = vec 2 P127 ∧ (fp2Mul one one).a1 = vec 2 0)

/-- The laws of R111, and range closure: on the working domain every result is in it. -/
def Obligations.Fp2LawsAndRangeClosure : Prop :=
  ∀ a b c : Fp2, NRFp2 a → NRFp2 b → NRFp2 c →
    (NRFp2 (fp2Add a b) ∧ NRFp2 (fp2Sub a b) ∧ NRFp2 (fp2Neg a) ∧ NRFp2 (fp2Mul a b) ∧ NRFp2 (fp2Sqr a) ∧
      NRFp2 (fp2Canon a)) ∧
    fp2Add a b = fp2Add b a ∧ fp2Mul a b = fp2Mul b a ∧ Fp2Eq (fp2Mul a a) (fp2Sqr a) ∧
    fp2Add a (fp2Neg a) = ⟨vec 2 P127, vec 2 P127⟩ ∧
    fp2Canon ⟨vec 2 P127, vec 2 P127⟩ = ⟨vec 2 0, vec 2 0⟩ ∧
    Fp2Eq (fp2Mul a (fp2Add b c)) (fp2Add (fp2Mul a b) (fp2Mul a c))

/-! ### ED -/

/-- `ED.DBL` is the thirteen FP2 functions of R115 on the components of `P`, in the working domain when `P` is; `Ta` and
`Tb` are not read; `FLAG` must be 0. -/
def Obligations.EdDoubleSteps : Prop :=
  ∀ P : EdPoint, isEdPoint P = true →
    decode ⟨0x60, edPointWords P⟩ = .ok (.edDbl P) ∧ (∀ ws, decode ⟨0x160, ws⟩ = .error .flagNotTaken) ∧
    ∀ s : State,
      let v := fp2Add P.X P.Y
      let a := fp2Sqr P.X
      let b := fp2Sqr P.Y
      let z := fp2Sqr P.Z
      let c := fp2Add z z
      let d := fp2Add a b
      let q := fp2Sqr v
      let e := fp2Sub q d
      let f := fp2Sub b a
      let g := fp2Sub c f
      let R : EdPoint := { X := fp2Mul e g, Y := fp2Mul d f, Z := fp2Mul f g, Ta := d, Tb := e }
      exec (.edDbl P) s = .next (s.respond .ok false (edPointWords R)) ∧
      (NREdPoint P → NREdPoint R) ∧
      ∀ Ta Tb : Fp2, isFp2 Ta = true → isFp2 Tb = true →
        exec (.edDbl { P with Ta := Ta, Tb := Tb }) s = exec (.edDbl P) s

/-- `ED.ADD` and `ED.MADD` are the FP2 functions of R116 and R117 on the components; they differ in the one line that
forms `d`; `ED.MADD` does not read `doubledZ`; on the working domain the results are in it; `FLAG` must be 0. -/
def Obligations.EdAddSteps : Prop :=
  ∀ (P : EdPoint) (Q : EdEntry), isEdPoint P = true → isEdEntry Q = true →
    decode ⟨0x61, edPointWords P ++ edEntryWords Q⟩ = .ok (.edAdd P Q) ∧
    decode ⟨0x62, edPointWords P ++ edEntryWords Q⟩ = .ok (.edMadd P Q) ∧
    (∀ ws, decode ⟨0x161, ws⟩ = .error .flagNotTaken ∧ decode ⟨0x162, ws⟩ = .error .flagNotTaken) ∧
    ∀ s : State,
      let t := fp2Mul P.Ta P.Tb
      let a := fp2Mul (fp2Sub P.Y P.X) Q.diffYX
      let b := fp2Mul (fp2Add P.Y P.X) Q.sumYX
      let e := fp2Sub b a
      let h := fp2Add b a
      let c := fp2Mul t Q.doubledTProduct
      let result : Fp2 → EdPoint := fun d =>
        let f := fp2Sub d c
        let g := fp2Add d c
        { X := fp2Mul e f, Y := fp2Mul g h, Z := fp2Mul f g, Ta := e, Tb := h }
      exec (.edAdd P Q) s = .next (s.respond .ok false (edPointWords (result (fp2Mul P.Z Q.doubledZ)))) ∧
      exec (.edMadd P Q) s = .next (s.respond .ok false (edPointWords (result (fp2Add P.Z P.Z)))) ∧
      (NREdPoint P → NREdEntry Q →
        NREdPoint (result (fp2Mul P.Z Q.doubledZ)) ∧ NREdPoint (result (fp2Add P.Z P.Z))) ∧
      ∀ z : Fp2, isFp2 z = true → exec (.edMadd P { Q with doubledZ := z }) s = exec (.edMadd P Q) s

/-- The three point commands give results with `Ta'*Tb'*Z' = X'*Y'`, on every operand of the working domain. -/
def Obligations.EdResultsMeetTheInvariant : Prop :=
  ∀ (P : EdPoint) (Q : EdEntry), NREdPoint P → NREdEntry Q →
    SegreInv (edDbl P) ∧ SegreInv (edAdd P Q) ∧ SegreInv (edMadd P Q)

/-- Doubling a point of the curve gives a point of the curve, whatever the curve constant `d` (the curve model is the
spec's general knowledge K2, log entry 19). -/
def Obligations.EdDoubleStaysOnCurve : Prop :=
  ∀ (d : Fp2) (P : EdPoint), NRFp2 d → NREdPoint P → SegreInv P → OnCurve d P →
    SegreInv (edDbl P) ∧ OnCurve d (edDbl P)

/-- Curve consistency: adding a point of the curve to itself through its table entry is doubling it, as projective
points, whatever the curve constant `d` (the curve model and the table entry are the spec's general knowledge K2 and
K3, log entry 19). -/
def Obligations.EdAddOfSelfIsDouble : Prop :=
  ∀ (d : Fp2) (P : EdPoint), NRFp2 d → NREdPoint P → OnCurve d P →
    let A := edAdd P (entryOf d P)
    let D := edDbl P
    Fp2Eq (fp2Mul A.X D.Z) (fp2Mul D.X A.Z) ∧ Fp2Eq (fp2Mul A.Y D.Z) (fp2Mul D.Y A.Z)

/-- What the additions compute: with the table entry of `Q` built as R114 says, the result is the projective point
`x3 = (x1*y2 + y1*x2) / (1 + d*x1*x2*y1*y2)`, `y3 = (y1*y2 + x1*x2) / (1 - d*x1*x2*y1*y2)`, the sum of `P` and `Q` on the
curve of R113 (denominators multiplied out; that this is the curve's sum is not the spec's words, and the curve
model, the table entry and the middle steps are its general knowledge K2, K3 and K4, log entry 19); and `ED.MADD` does
the same where `Q` has `Z` = 1, in either pattern of it, (1, 0) and (1, p). -/
def Obligations.EdAddIsTheCurveSum : Prop :=
  ∀ (d : Fp2) (P Q : EdPoint), NRFp2 d → NREdPoint P → NREdPoint Q → SegreInv P → SegreInv Q →
    let N := fp2Mul (fp2Sqr P.Z) (fp2Sqr Q.Z)
    let K := fp2Mul d (fp2Mul (fp2Mul P.X P.Y) (fp2Mul Q.X Q.Y))
    let IsSum : EdPoint → Prop := fun R =>
      Fp2Eq (fp2Mul R.X (fp2Add N K))
        (fp2Mul R.Z (fp2Mul (fp2Add (fp2Mul P.X Q.Y) (fp2Mul P.Y Q.X)) (fp2Mul P.Z Q.Z))) ∧
      Fp2Eq (fp2Mul R.Y (fp2Sub N K))
        (fp2Mul R.Z (fp2Mul (fp2Add (fp2Mul P.Y Q.Y) (fp2Mul P.X Q.X)) (fp2Mul P.Z Q.Z)))
    IsSum (edAdd P (entryOf d Q)) ∧ (Fp2Eq Q.Z ⟨vec 2 1, vec 2 0⟩ → IsSum (edMadd P (entryOf d Q)))

/-! ### ML -/

/-- `ML.STEP`, `ML.DBL` and `ML.DADD` are the steps of R129, R130 and R132 over the build's ladder field, in its working
domain when the elements they read are. -/
def Obligations.LadderSteps : Prop :=
  ∀ S : MlState, isMlState S = true →
    (∀ f : Bool, decode ⟨0x70 + (if f then 0x100 else 0), mlStateWords S⟩ = .ok (.mlStep f S)) ∧
    decode ⟨0x71, mlStateWords S⟩ = .ok (.mlDbl S) ∧
    (∀ ws, decode ⟨0x171, ws⟩ = .error .flagNotTaken ∧ decode ⟨0x172, ws⟩ = .error .flagNotTaken) ∧
    ∀ s : State,
      let A := LF.add S.x2 S.z2
      let B := LF.sub S.x2 S.z2
      let C := LF.add S.x3 S.z3
      let D := LF.sub S.x3 S.z3
      let U := LF.add (LF.mul D A) (LF.mul C B)
      let W := LF.sub (LF.mul D A) (LF.mul C B)
      let dbl : List Limb → List Limb → List Limb × List Limb := fun A2 B2 =>
        let AA := LF.sqr A2
        let BB := LF.sqr B2
        let E := LF.sub AA BB
        (LF.mul AA BB, LF.mul E (LF.add (LF.mulA24 E) BB))
      (∀ f : Bool, let d := dbl (if f then C else A) (if f then D else B);
        let R : MlState := { x1 := S.x1, x2 := d.1, z2 := d.2, x3 := LF.sqr U, z3 := LF.mul S.x1 (LF.sqr W) };
        exec (.mlStep f S) s = .next (s.respond .ok false (mlStateWords R)) ∧ (NRMlState LF S → NRMlState LF R)) ∧
      (let d := dbl A B;
        exec (.mlDbl S) s = .next (s.respond .ok false (mlStateWords { S with x2 := d.1, z2 := d.2 })) ∧
        (LF.nrl S.x2 → LF.nrl S.z2 → LF.nrl d.1 ∧ LF.nrl d.2)) ∧
      (∀ fx : List Limb, fx.length = LF.nl →
        decode ⟨0x72, mlStateWords S ++ fx⟩ = .ok (.mlDadd S fx) ∧
        exec (.mlDadd S fx) s = .next (s.respond .ok false
          (mlStateWords { S with x3 := LF.sqr U, z3 := LF.mul fx (LF.sqr W) })) ∧
        (LF.nrl S.x2 → LF.nrl S.z2 → LF.nrl S.x3 → LF.nrl S.z3 → LF.nrl fx →
          LF.nrl (LF.sqr U) ∧ LF.nrl (LF.mul fx (LF.sqr W))))

/-- What the ladder commands compute, over any ladder field that meets the contract: the x-only doubling
`((x^2 - z^2)^2 : 4xz((x - z)^2 + a24*4xz))` of the pair the flag picks and the differential addition
`(4(x2*x3 - z2*z3)^2 : 4*xd*(x3*z2 - z3*x2)^2)`; on the working domain every element stays in it, and the two halves
of a step are `ML.DBL` (flag 0) and `ML.DADD` with `fx` = `x1` (either flag), limb for limb. -/
def Obligations.LadderFormulas : Prop :=
  ∀ F : LadderParams, F.Contract → ∀ (S : MlState) (fx : List Limb), NRMlState F S → F.nrl fx → ∀ f : Bool,
    let v : List Limb → ZMod F.ql := fun a => (val a : ZMod F.ql)
    let R := mlStep F f S
    let x := v (if f then S.x3 else S.x2)
    let z := v (if f then S.z3 else S.z2)
    let A := mlDadd F S fx
    NRMlState F R ∧ NRMlState F (mlDbl F S) ∧ NRMlState F A ∧ R.x1 = S.x1 ∧
    v R.x2 = (x ^ 2 - z ^ 2) ^ 2 ∧
    v R.z2 = 4 * x * z * ((x - z) ^ 2 + F.a24 * (4 * x * z)) ∧
    v R.x3 = 4 * (v S.x2 * v S.x3 - v S.z2 * v S.z3) ^ 2 ∧
    v R.z3 = 4 * v S.x1 * (v S.x3 * v S.z2 - v S.z3 * v S.x2) ^ 2 ∧
    v A.x3 = 4 * (v S.x2 * v S.x3 - v S.z2 * v S.z3) ^ 2 ∧
    v A.z3 = 4 * v fx * (v S.x3 * v S.z2 - v S.z3 * v S.x2) ^ 2 ∧
    mlDbl F S = { S with x2 := (mlStep F false S).x2, z2 := (mlStep F false S).z2 } ∧
    mlDadd F S S.x1 = { S with x3 := R.x3, z3 := R.z3 }

/-- `LF_TEST`, F127 with `a24` = 121666, meets the contract of the ladder field. -/
def Obligations.TestFieldMeetsTheContract : Prop := LF_TEST.Contract
end

