-- ==== Sys2Proof/Laws/Limbs.lean ====
section
/-! SUPPORT. Limb vectors and their values: `val` and `vec` are inverse to each other on their ranges, and selection by
mask is selection (00_scope.md R9, 40_limbvector.md R57). -/

namespace Sys2Proof

@[simp] theorem vec_length (n v : Nat) : (vec n v).length = n := by
  induction n generalizing v with
  | zero => rfl
  | succ n ih => simp [vec, ih]

theorem val_lt (a : List Limb) : val a < 2 ^ (64 * a.length) := by
  induction a with
  | nil => simp [val]
  | cons x xs ih =>
    have hx := x.isLt
    have h : 2 ^ (64 * (xs.length + 1)) = 2 ^ 64 * 2 ^ (64 * xs.length) := by rw [← pow_add]; congr 1; omega
    simp only [val, List.length_cons, h]
    nlinarith

theorem val_lt_of_length {n : Nat} {a : List Limb} (h : a.length = n) : val a < 2 ^ (64 * n) := h ▸ val_lt a

/-- `val(vec_N(v)) = v mod 2^(64N)`. -/
theorem val_vec_mod (n v : Nat) : val (vec n v) = v % 2 ^ (64 * n) := by
  induction n generalizing v with
  | zero => simp [vec, val, Nat.mod_one]
  | succ n ih =>
    have h : 2 ^ (64 * (n + 1)) = 2 ^ 64 * 2 ^ (64 * n) := by rw [← pow_add]; congr 1; omega
    simp only [vec, val, ih, BitVec.toNat_ofNat]
    rw [h, Nat.mod_mul]

/-- `val(vec_N(v)) = v` for `v < 2^(64N)`. -/
theorem val_vec {n v : Nat} (h : v < 2 ^ (64 * n)) : val (vec n v) = v := by
  rw [val_vec_mod, Nat.mod_eq_of_lt h]

theorem val_vec2 {v : Nat} (h : v < 2 ^ 128) : val (vec 2 v) = v := val_vec h

set_option exponentiation.threshold 400 in
theorem val_vec6 {v : Nat} (h : v < 2 ^ 384) : val (vec 6 v) = v := val_vec h

/-- `vec_N(val(a)) = a` for an `N`-limb vector `a`. -/
theorem vec_val {n : Nat} {a : List Limb} (h : a.length = n) : vec n (val a) = a := by
  induction a generalizing n with
  | nil => subst h; rfl
  | cons x xs ih =>
    subst h
    have hx := x.isLt
    have h1 : (x.toNat + 2 ^ 64 * val xs) / 2 ^ 64 = val xs := by omega
    have h2 : BitVec.ofNat 64 (x.toNat + 2 ^ 64 * val xs) = x := by
      apply BitVec.eq_of_toNat_eq; simp only [BitVec.toNat_ofNat]; omega
    simp only [List.length_cons, vec, val, h1, h2, ih rfl]

/-- Two vectors of one length with one value are equal. -/
theorem eq_of_val_eq {a b : List Limb} (hl : a.length = b.length) (hv : val a = val b) : a = b := by
  have ha := vec_val hl
  rwa [hv, vec_val rfl, eq_comm] at ha

namespace Machine

theorem mask_false : mask false = 0 := rfl

theorem mask_true : mask true = BitVec.allOnes 64 := by decide

@[simp] theorem select_true (x y : Limb) : (x &&& mask true) ||| (y &&& ~~~ mask true) = x := by
  rw [mask_true]; ext i hi; simp [-BitVec.reduceAllOnes]

@[simp] theorem select_false (x y : Limb) : (x &&& mask false) ||| (y &&& ~~~ mask false) = y := by
  rw [mask_false, show ~~~ (0 : Limb) = BitVec.allOnes 64 by decide]; ext i hi; simp [-BitVec.reduceAllOnes]

/-- `SEL_N` with flag 1 is its first operand (on vectors of one length). -/
theorem selN_true {a b : List Limb} (h : a.length = b.length) : selN true a b = a := by
  induction a generalizing b with
  | nil => rfl
  | cons x xs ih =>
    cases b with
    | nil => simp at h
    | cons y ys =>
      have := ih (b := ys) (by simpa using h)
      simp_all only [selN, List.zipWith_cons_cons, select_true]

/-- `SEL_N` with flag 0 is its second operand (on vectors of one length). -/
theorem selN_false {a b : List Limb} (h : a.length = b.length) : selN false a b = b := by
  induction a generalizing b with
  | nil => cases b <;> simp_all [selN]
  | cons x xs ih =>
    cases b with
    | nil => simp at h
    | cons y ys =>
      have := ih (b := ys) (by simpa using h)
      simp_all only [selN, List.zipWith_cons_cons, select_false]

/-- `SEL_N` says what it is named for: "flag ? a : b". -/
theorem selN_eq (f : Bool) {a b : List Limb} (h : a.length = b.length) : selN f a b = if f then a else b := by
  cases f
  · simp [selN_false h]
  · simp [selN_true h]

theorem selN_length (f : Bool) {a b : List Limb} (h : a.length = b.length) : (selN f a b).length = b.length := by
  simp [selN, h]

@[simp] theorem isLimbs_iff (n : Nat) (a : List Limb) : isLimbs n a = true ↔ a.length = n := by simp [isLimbs]

theorem isFp2_iff (a : Fp2) : isFp2 a = true ↔ a.a0.length = 2 ∧ a.a1.length = 2 := by simp [isFp2]

end Machine

end Sys2Proof
end

