-- ==== Sys2Proof/Laws/Encoding.lean ====
section
/-! SUPPORT. The fields of a command word, the opcode map in both directions, and the words of a composite value. -/

namespace Sys2Proof

open Machine

theorem Op.ofOpcode_opcode (op : Op) : Op.ofOpcode op.opcode = some op := by cases op <;> rfl

theorem Op.opcode_of_ofOpcode {b : BitVec 8} {op : Op} (h : Op.ofOpcode b = some op) : op.opcode = b := by
  have := List.find?_some h
  simpa using this

theorem opcField_toNat (w : Word) : (opcField w).toNat = w.toNat % 2 ^ 8 := by
  simp [opcField, BitVec.extractLsb'_toNat]

theorem reservedField_toNat (w : Word) : (reservedField w).toNat = w.toNat / 2 ^ 9 := by
  have := w.isLt
  simp only [reservedField, BitVec.extractLsb'_toNat, Nat.shiftRight_eq_div_pow]; omega

theorem flagField_eq (w : Word) : flagField w = decide (w.toNat / 2 ^ 8 % 2 = 1) := by
  simp only [flagField, BitVec.getLsbD, Nat.testBit_eq_decide_div_mod_eq]

theorem commandWord_toNat (op : Op) (flag : Bool) :
    (commandWord op flag).toNat = op.opcode.toNat + flag.toNat * 2 ^ 8 := by
  have := op.opcode.isLt; have := flag.toNat_le
  simp only [commandWord, BitVec.toNat_ofNat]; omega

@[simp] theorem opcField_commandWord (op : Op) (flag : Bool) : opcField (commandWord op flag) = op.opcode := by
  apply BitVec.eq_of_toNat_eq
  have := op.opcode.isLt
  rw [opcField_toNat, commandWord_toNat]; omega

@[simp] theorem reservedField_commandWord (op : Op) (flag : Bool) : reservedField (commandWord op flag) = 0 := by
  apply BitVec.eq_of_toNat_eq
  have := op.opcode.isLt; have := flag.toNat_le
  rw [reservedField_toNat, commandWord_toNat]; simp; omega

@[simp] theorem flagField_commandWord (op : Op) (flag : Bool) : flagField (commandWord op flag) = flag := by
  have := op.opcode.isLt
  rw [flagField_eq, commandWord_toNat]
  cases flag <;> simp <;> omega

/-- The slots of a frame lose no word. -/
theorem operands_command (op : Op) (flag : Bool) (ws : List Word) : (op.command flag ws).operands = ws := by
  have h4 (n : Nat) (l : List Word) : l.take n ++ (l.drop n) = l := List.take_append_drop n l
  have d (m n : Nat) (l : List Word) : (l.drop m).take n ++ l.drop (m + n) = l.drop m := by
    rw [← List.drop_drop]; exact List.take_append_drop n _
  have d8 := d 4 4 ws; have d12 := d 8 4 ws; have d16 := d 12 4 ws
  have hfp (l : List Word) : fp2Words (fp2OfWords l) = l := by simp [fp2Words, fp2OfWords]
  have hpt (l : List Word) : edPointWords (edPointOfWords l) = l := by
    have d8 := d 4 4 l; have d12 := d 8 4 l; have d16 := d 12 4 l
    simp only [edPointWords, edPointOfWords, hfp, List.append_assoc, d16, d12, d8, h4]
  have htb (l : List Word) : edEntryWords (edEntryOfWords l) = l := by
    have d8 := d 4 4 l; have d12 := d 8 4 l
    simp only [edEntryWords, edEntryOfWords, hfp, List.append_assoc, d12, d8, h4]
  have hml (l : List Word) : mlStateWords (mlStateOfWords l) = l := by
    have e2 : 2 * LF.nl = LF.nl + LF.nl := by omega
    have e3 : 3 * LF.nl = 2 * LF.nl + LF.nl := by omega
    have e4 : 4 * LF.nl = 3 * LF.nl + LF.nl := by omega
    have m2 := d LF.nl LF.nl l; have m3 := d (2 * LF.nl) LF.nl l; have m4 := d (3 * LF.nl) LF.nl l
    rw [← e2] at m2; rw [← e3] at m3; rw [← e4] at m4
    simp only [mlStateWords, mlStateOfWords, List.append_assoc, m4, m3, m2, h4]
  cases op <;> simp [Op.command, Instr.operands, hfp, hpt, htb, hml]

theorem op_command (op : Op) (flag : Bool) (ws : List Word) : (op.command flag ws).op = op := by cases op <;> rfl

theorem flag_command (op : Op) (flag : Bool) (ws : List Word) :
    (op.command flag ws).flag = (flag && op.takesFlag) := by cases op <;> simp [Op.command, Instr.flag, Op.takesFlag]

/-- What an accepted frame says of its command word, and what it is read as. -/
theorem decode_ok_iff (f : CommandFrame) (i : Instr) :
    decode f = .ok i ↔ reservedField f.cw = 0 ∧ ∃ op, Op.ofOpcode (opcField f.cw) = some op ∧
      (flagField f.cw && !op.takesFlag) = false ∧ i = op.command (flagField f.cw) f.payload := by
  unfold decode
  generalize reservedField f.cw = r, Op.ofOpcode (opcField f.cw) = o, flagField f.cw = fl
  by_cases hr : r = 0
  · rw [if_neg (not_not_intro hr)]
    cases o with
    | none => exact ⟨fun h => by injection h, fun ⟨_, _, h, _⟩ => by injection h⟩
    | some op =>
      cases hf : (fl && !op.takesFlag)
      · refine ⟨fun h => ⟨hr, op, rfl, hf, ?_⟩, fun ⟨_, op', h, _, hi⟩ => ?_⟩
        · simp only [hf, Bool.false_eq_true, if_false] at h; injection h with h; exact h.symm
        · injection h with h; subst h; rw [hi]; simp only [hf, Bool.false_eq_true, if_false]
      · refine ⟨fun h => ?_, fun ⟨_, op', h, h', _⟩ => ?_⟩
        · simp only [hf, if_true] at h; injection h
        · injection h with h; subst h; rw [hf] at h'; injection h'
  · rw [if_pos hr]; exact ⟨fun h => by injection h, fun h => absurd h.1 hr⟩

/-! ### A composite value is read back from its words -/

theorem fp2OfWords_words {a : Fp2} (h : isFp2 a = true) : fp2OfWords (fp2Words a) = a := by
  rw [isFp2_iff] at h
  obtain ⟨x, y⟩ := a
  simp [fp2OfWords, fp2Words, ← h.1]

theorem edPointOfWords_words {P : EdPoint} (h : isEdPoint P = true) : edPointOfWords (edPointWords P) = P := by
  simp only [isEdPoint, Bool.and_eq_true] at h
  obtain ⟨⟨⟨⟨h1, h2⟩, h3⟩, h4⟩, h5⟩ := h
  have l (a : Fp2) (ha : isFp2 a = true) : (fp2Words a).length = 4 := by
    rw [isFp2_iff] at ha; simp [fp2Words, ha]
  obtain ⟨X, Y, Z, Ta, Tb⟩ := P
  simp only at h1 h2 h3 h4 h5
  simp [edPointOfWords, edPointWords, List.drop_append, l, h1, h2, h3, h4, h5, fp2OfWords_words,
    List.drop_of_length_le]

theorem edEntryOfWords_words {Q : EdEntry} (h : isEdEntry Q = true) : edEntryOfWords (edEntryWords Q) = Q := by
  simp only [isEdEntry, Bool.and_eq_true] at h
  obtain ⟨⟨⟨h1, h2⟩, h3⟩, h4⟩ := h
  have l (a : Fp2) (ha : isFp2 a = true) : (fp2Words a).length = 4 := by
    rw [isFp2_iff] at ha; simp [fp2Words, ha]
  obtain ⟨a, b, c, d⟩ := Q
  simp only at h1 h2 h3 h4
  simp [edEntryOfWords, edEntryWords, List.drop_append, l, h1, h2, h3, h4, fp2OfWords_words,
    List.drop_of_length_le]

theorem mlStateOfWords_words {S : MlState} (h : isMlState S = true) : mlStateOfWords (mlStateWords S) = S := by
  simp only [isMlState, Bool.and_eq_true, isLimbs_iff] at h
  obtain ⟨⟨⟨⟨h1, h2⟩, h3⟩, h4⟩, h5⟩ := h
  obtain ⟨a, b, c, d, e⟩ := S
  simp only at h1 h2 h3 h4 h5
  have d2 (l : List Limb) : l.drop (2 * LF.nl) = (l.drop LF.nl).drop LF.nl := by rw [List.drop_drop]; congr 1; omega
  have d3 (l : List Limb) : l.drop (3 * LF.nl) = (l.drop (2 * LF.nl)).drop LF.nl := by
    rw [List.drop_drop]; congr 1; omega
  have d4 (l : List Limb) : l.drop (4 * LF.nl) = (l.drop (3 * LF.nl)).drop LF.nl := by
    rw [List.drop_drop]; congr 1; omega
  simp only [mlStateOfWords, mlStateWords, List.append_assoc, d4, d3, d2, List.drop_left' h1, List.drop_left' h2,
    List.drop_left' h3, List.drop_left' h4, List.take_left' h1, List.take_left' h2, List.take_left' h3,
    List.take_left' h4]

/-- A command word built by R42, its flag taken, is accepted with any payload. -/
theorem decode_commandWord {op : Op} {flag : Bool} (h : (flag && !op.takesFlag) = false) (ws : List Word) :
    decode ⟨commandWord op flag, ws⟩ = .ok (op.command flag ws) := by
  rw [decode_ok_iff]
  simp only [reservedField_commandWord, opcField_commandWord, flagField_commandWord]
  exact ⟨trivial, op, Op.ofOpcode_opcode op, h, rfl⟩

/-- `FLAG` = 1 on a command that takes no flag is refused, with any payload. -/
theorem decode_flag_not_taken {op : Op} (h : op.takesFlag = false) (ws : List Word) :
    decode ⟨commandWord op true, ws⟩ = .error .flagNotTaken := by
  simp [decode, Op.ofOpcode_opcode, h]

end Sys2Proof
end

