-- ==== Sys2Proof/Laws/Fields.lean ====
section
/-! SUPPORT. For each field function the width of its result and the value of its result, so that callers need not
unfold it. -/

namespace Sys2Proof.Machine

open Config (P127)

/-! ### LV -/

@[simp] theorem lvAdd_length (n : Nat) (a b : List Limb) : (lvAdd n a b).1.length = n := vec_length _ _

@[simp] theorem lvSub_length (n : Nat) (a b : List Limb) : (lvSub n a b).1.length = n := vec_length _ _

theorem borrowOut_eq (a b : List Limb) : borrowOut a b = decide (val a < val b) := by
  simp only [borrowOut]; congr 1; simp only [eq_iff_iff]; omega

theorem lvSub_borrow (n : Nat) (a b : List Limb) : (lvSub n a b).2 = decide (val a < val b) := borrowOut_eq a b

/-- The residue of a difference of two naturals below the modulus. -/
theorem emod_sub_toNat {x y M : Nat} (hx : x < M) (hy : y < M) :
    (((x : Int) - (y : Int)) % (M : Int)).toNat = if x < y then x + M - y else x - y := by
  split
  · rw [← Int.add_emod_right, Int.emod_eq_of_lt (by omega) (by omega)]; omega
  · rw [Int.emod_eq_of_lt (by omega) (by omega)]; omega

/-- The difference, when both operands fit the width. -/
theorem lvSub_val {n : Nat} {a b : List Limb} (ha : val a < 2 ^ (64 * n)) (hb : val b < 2 ^ (64 * n)) :
    val (lvSub n a b).1 = if val a < val b then val a + 2 ^ (64 * n) - val b else val a - val b := by
  have e : ((2 : Int) ^ (64 * n)) = ((2 ^ (64 * n) : Nat) : Int) := by push_cast; rfl
  simp only [lvSub, e, emod_sub_toNat ha hb]
  rw [val_vec (by split <;> omega)]

/-! ### F127 -/

/-- Two folds bring every 128-bit value into `NR127` (41_f127.md R71, in part). -/
theorem mod2_lt {v : Nat} (h : v < 2 ^ 128) : mod2 v < 2 ^ 127 := by
  simp only [mod2, fold127]; omega

theorem mulFold_lt (T : Nat) : mulFold T < 2 ^ 128 := Nat.mod_lt _ (by decide)

theorem vec2_mod2_val {v : Nat} (h : v < 2 ^ 128) : val (vec 2 (mod2 v)) = mod2 v :=
  val_vec2 (by have := mod2_lt h; omega)

/-- The complement of the 127 value bits is subtraction from `P127`. -/
theorem xor_P127 {v : Nat} (h : v < 2 ^ 127) : v ^^^ P127 = P127 - v := by
  have e := congrArg BitVec.toNat (BitVec.xor_allOnes (x := BitVec.ofNat 127 v))
  rw [BitVec.toNat_xor, BitVec.toNat_not, BitVec.toNat_allOnes, BitVec.toNat_ofNat, Nat.mod_eq_of_lt h] at e
  exact e

/-- Bit 127 is left as it is. -/
theorem xor_P127_top {v : Nat} (h : v < 2 ^ 127) : (2 ^ 127 + v) ^^^ P127 = 2 ^ 127 + (P127 - v) := by
  rw [← xor_P127 h]
  have hx : v ^^^ P127 < 2 ^ 127 := Nat.xor_lt_two_pow h (by decide)
  have e1 := Nat.two_pow_add_eq_or_of_lt h 1
  have e2 := Nat.two_pow_add_eq_or_of_lt hx 1
  simp only [mul_one] at e1 e2
  rw [e1, e2]
  apply Nat.eq_of_testBit_eq; intro i
  simp only [Nat.testBit_xor, Nat.testBit_or, P127, Nat.testBit_two_pow_sub_one, Nat.testBit_two_pow]
  by_cases hi : 127 = i
  · subst hi; simp
  · simp [hi]

theorem xor_P127_lt {v : Nat} (h : v < 2 ^ 128) : v ^^^ P127 < 2 ^ 128 := Nat.xor_lt_two_pow h (by decide)

@[simp] theorem f127Add_length (a b : List Limb) : (f127Add a b).length = 2 := vec_length _ _
@[simp] theorem f127Neg_length (a : List Limb) : (f127Neg a).length = 2 := vec_length _ _
@[simp] theorem f127Sub_length (a b : List Limb) : (f127Sub a b).length = 2 := vec_length _ _
@[simp] theorem f127Mul_length (a b : List Limb) : (f127Mul a b).length = 2 := vec_length _ _
@[simp] theorem f127Sqr_length (a : List Limb) : (f127Sqr a).length = 2 := vec_length _ _

theorem f127Add_val (a b : List Limb) : val (f127Add a b) = mod2 ((val a + val b) % 2 ^ 128) :=
  vec2_mod2_val (Nat.mod_lt _ (by decide))

theorem f127Neg_val {a : List Limb} (h : a.length = 2) : val (f127Neg a) = mod2 (val a ^^^ P127) :=
  vec2_mod2_val (xor_P127_lt (val_lt_of_length h))

/-- Subtraction is the addition of the negation, bit for bit. -/
theorem f127Sub_eq {a b : List Limb} (h : b.length = 2) : f127Sub a b = f127Add a (f127Neg b) := by
  simp only [f127Add, f127Neg_val h]; rfl

theorem f127Mul_val (a b : List Limb) : val (f127Mul a b) = mod2 (mulFold (val a * val b)) :=
  vec2_mod2_val (mulFold_lt _)

theorem f127Mul_comm (a b : List Limb) : f127Mul a b = f127Mul b a := by simp only [f127Mul, Nat.mul_comm]

theorem f127Add_comm (a b : List Limb) : f127Add a b = f127Add b a := by simp only [f127Add, Nat.add_comm]

theorem val_P127 : val (vec 2 P127) = P127 := val_vec2 (by decide)

theorem f127Canon_length {a : List Limb} (h : a.length = 2) : (f127Canon a).length = 2 := by
  simp [f127Canon, selN_length _ (show a.length = (lvSub 2 a (vec 2 P127)).1.length by simp [h])]

/-- One conditional subtraction. -/
theorem f127Canon_val {a : List Limb} (h : a.length = 2) :
    val (f127Canon a) = if val a < P127 then val a else val a - P127 := by
  have ha : val a < 2 ^ (64 * 2) := val_lt_of_length h
  have hp : val (vec 2 P127) < 2 ^ (64 * 2) := by rw [val_P127]; decide
  simp only [f127Canon]
  rw [selN_eq _ (by simp [h]), lvSub_borrow, val_P127]
  by_cases hc : val a < P127
  · simp [hc]
  · simp only [hc, decide_false, Bool.false_eq_true, if_false, lvSub_val ha hp, val_P127]

/-! ### F384, for any modulus -/

/-- The build's modulus is prime (R6, R85). -/
theorem P384_prime : P384.Prime := Config.P384.prime

/-- The range and the oddness of the build's modulus (R6, R85). -/
theorem P384_facts : P384 % 2 = 1 ∧ 2 ^ 383 < P384 ∧ P384 < 2 ^ 384 :=
  ⟨Config.P384.odd, Config.P384.lower, Config.P384.upper⟩

@[simp] theorem f384Add_length (p : Nat) (a b : List Limb) : (f384Add p a b).length = 6 := vec_length _ _
@[simp] theorem f384Mul_length (p : Nat) (a b : List Limb) : (f384Mul p a b).length = 6 := vec_length _ _
@[simp] theorem f384Sqr_length (p : Nat) (a : List Limb) : (f384Sqr p a).length = 6 := vec_length _ _
@[simp] theorem f384Canon_length (p : Nat) (a : List Limb) : (f384Canon p a).length = 6 := vec_length _ _
set_option exponentiation.threshold 400 in
@[simp] theorem f384Sub_length (p : Nat) (a b : List Limb) : (f384Sub p a b).length = 6 := by
  simp only [f384Sub]; rw [selN_length _ (by simp)]; simp
@[simp] theorem f384Neg_length (p : Nat) (a : List Limb) : (f384Neg p a).length = 6 := f384Sub_length _ _ _

set_option exponentiation.threshold 400 in
theorem gfpCarry_lt (p t : Nat) : gfpCarry p t < 2 ^ 384 := Nat.mod_lt _ (Nat.two_pow_pos 384)

theorem vec6_gfpCarry_val (p t : Nat) : val (vec 6 (gfpCarry p t)) = gfpCarry p t := val_vec6 (gfpCarry_lt p t)

theorem f384Add_val (p : Nat) (a b : List Limb) : val (f384Add p a b) = gfpCarry p (val a + val b) :=
  vec6_gfpCarry_val _ _

theorem f384Mul_val (p : Nat) (a b : List Limb) : val (f384Mul p a b) = gfpCarry p (redc p (val a * val b)) :=
  vec6_gfpCarry_val _ _

theorem f384Canon_val (p : Nat) (a : List Limb) : val (f384Canon p a) = gfpCarry p (val a) := vec6_gfpCarry_val _ _

set_option exponentiation.threshold 400 in
/-- The difference, with `p` added back after a borrow. -/
theorem f384Sub_val {p : Nat} {a b : List Limb} (ha : a.length = 6) (hb : b.length = 6) :
    val (f384Sub p a b) =
      if val a < val b then (val a + 2 ^ 384 - val b + p) % 2 ^ 384 else val a - val b := by
  have la : val a < 2 ^ (64 * 6) := val_lt_of_length ha
  have lb : val b < 2 ^ (64 * 6) := val_lt_of_length hb
  simp only [f384Sub]
  rw [selN_eq _ (by simp), lvSub_borrow]
  by_cases hc : val a < val b
  · simp only [hc, decide_true, if_true]
    rw [lvSub_val la lb, if_pos hc, val_vec6 (Nat.mod_lt _ (Nat.two_pow_pos 384))]
  · simp only [hc, decide_false, Bool.false_eq_true, if_false]
    rw [lvSub_val la lb, if_neg hc]

end Sys2Proof.Machine
end

