-- ==== Sys2Proof/Laws/State.lean ====
section
/-! SUPPORT. One lemma per field per update of the state. -/

namespace Sys2Proof.Machine

@[simp] theorem State.withInputs_cfg (s : State) (r : List Input) : (s.withInputs r).cfg = s.cfg := rfl
@[simp] theorem State.withInputs_inputs (s : State) (r : List Input) : (s.withInputs r).inputs = r := rfl
@[simp] theorem State.withInputs_responses (s : State) (r : List Input) :
    (s.withInputs r).responses = s.responses := rfl

@[simp] theorem State.respond_cfg (s : State) (st : Status) (cf : Bool) (out : List Word) :
    (s.respond st cf out).cfg = s.cfg := rfl
@[simp] theorem State.respond_inputs (s : State) (st : Status) (cf : Bool) (out : List Word) :
    (s.respond st cf out).inputs = s.inputs := rfl
@[simp] theorem State.respond_responses (s : State) (st : Status) (cf : Bool) (out : List Word) :
    (s.respond st cf out).responses = s.responses ++ [⟨statusWord st cf s.cfg, out⟩] := rfl

@[simp] theorem State.reject_cfg (s : State) (st : Status) : (s.reject st).cfg = s.cfg := rfl
@[simp] theorem State.reject_inputs (s : State) (st : Status) : (s.reject st).inputs = s.inputs := rfl
@[simp] theorem State.reject_responses (s : State) (st : Status) :
    (s.reject st).responses = s.responses ++ [⟨statusWord st false s.cfg, []⟩] := rfl

@[simp] theorem State.applyReset_cfg (s : State) : s.applyReset.cfg = Cfg.reset := rfl
@[simp] theorem State.applyReset_inputs (s : State) : s.applyReset.inputs = s.inputs := rfl
@[simp] theorem State.applyReset_responses (s : State) : s.applyReset.responses = s.responses := rfl

@[simp] theorem State.selectImpl_inputs (s : State) : s.selectImpl.inputs = s.inputs := by
  unfold State.selectImpl; split <;> rfl
@[simp] theorem State.selectImpl_responses (s : State) : s.selectImpl.responses = s.responses := by
  unfold State.selectImpl; split <;> rfl
theorem State.selectImpl_cfg (s : State) :
    s.selectImpl.cfg = if s.cfg.selDone then s.cfg else ⟨Config.HAS_MAC, true⟩ := by
  unfold State.selectImpl; split <;> rfl

@[simp] theorem State.reset_cfg : State.reset.cfg = ⟨false, false⟩ := rfl
@[simp] theorem State.reset_inputs : State.reset.inputs = [] := rfl
@[simp] theorem State.reset_responses : State.reset.responses = [] := rfl

end Sys2Proof.Machine
end

