-- ==== Sys2Proof/Laws/Ops.lean ====
section
/-! SUPPORT. What the shared operations can do: the status word's value, the two ends of a command, and the one
inversion lemma of `exec`. -/

namespace Sys2Proof.Machine

theorem Status.code_le (st : Status) : st.code ≤ 2 := by cases st <;> decide

theorem statusWord_toNat (st : Status) (cf : Bool) (cfg : Cfg) :
    (statusWord st cf cfg).toNat =
      st.code + cf.toNat * 2 ^ 8 + cfg.implSel.toNat * 2 ^ 9 + cfg.selDone.toNat * 2 ^ 10 := by
  have h := st.code_le
  have h1 := cf.toNat_le; have h2 := cfg.implSel.toNat_le; have h3 := cfg.selDone.toNat_le
  simp only [statusWord, BitVec.toNat_ofNat]; omega

/-- The two ends of a command. -/
theorem finish_true (cf : Bool) (out : List Word) (s : State) : finish true cf out s = .next (s.respond .ok cf out) := rfl

theorem finish_false (cf : Bool) (out : List Word) (s : State) : finish false cf out s = .next (s.reject .badLen) := rfl

theorem finish_next (ok cf : Bool) (out : List Word) (s : State) :
    finish ok cf out s = .next (if ok then s.respond .ok cf out else s.reject .badLen) := rfl

/-- The carry or borrow a command returns (10_state.md R16). -/
def cfOf : Instr → Bool
  | .lv2Add a b => (lvAdd 2 a b).2
  | .lv6Add a b => (lvAdd 6 a b).2
  | .lv2Sub a b => (lvSub 2 a b).2
  | .lv6Sub a b => (lvSub 6 a b).2
  | _ => false

/-- The result words of a command. -/
def resultsOf : Instr → List Word
  | .sysSelimpl _ => []
  | .lv2Add a b => (lvAdd 2 a b).1
  | .lv2Sub a b => (lvSub 2 a b).1
  | .lv2Csel f a b => selN f a b
  | .lv2Cswap f a b => (lvCswap f a b).1 ++ (lvCswap f a b).2
  | .lv6Add a b => (lvAdd 6 a b).1
  | .lv6Sub a b => (lvSub 6 a b).1
  | .lv6Csel f a b => selN f a b
  | .lv6Cswap f a b => (lvCswap f a b).1 ++ (lvCswap f a b).2
  | .f127Add a b => f127Add a b
  | .f127Sub a b => f127Sub a b
  | .f127Neg a => f127Neg a
  | .f127Mul a b => f127Mul a b
  | .f127Sqr a => f127Sqr a
  | .f127Csel f a b => selN f a b
  | .f127Canon a => f127Canon a
  | .f384Add a b => f384Add P384 a b
  | .f384Sub a b => f384Sub P384 a b
  | .f384Neg a => f384Neg P384 a
  | .f384Mul a b => f384Mul P384 a b
  | .f384Sqr a => f384Sqr P384 a
  | .f384Csel f a b => selN f a b
  | .f384Canon a => f384Canon P384 a
  | .fp2Add a b => fp2Words (fp2Add a b)
  | .fp2Sub a b => fp2Words (fp2Sub a b)
  | .fp2Neg a => fp2Words (fp2Neg a)
  | .fp2Mul a b => fp2Words (fp2Mul a b)
  | .fp2Sqr a => fp2Words (fp2Sqr a)
  | .fp2Csel f a b => fp2Words (fp2Csel f a b)
  | .fp2Canon a => fp2Words (fp2Canon a)
  | .edDbl P => edPointWords (edDbl P)
  | .edAdd P Q => edPointWords (edAdd P Q)
  | .edMadd P Q => edPointWords (edMadd P Q)
  | .mlStep f S => mlStateWords (mlStep LF f S)
  | .mlDbl S => mlStateWords (mlDbl LF S)
  | .mlDadd S fx => mlStateWords (mlDadd LF S fx)

/-- The state a well-formed command leaves before it responds: only `SYS.SELIMPL` touches it. -/
def afterCommand : Instr → State → State
  | .sysSelimpl _, s => s.selectImpl
  | _, s => s

/-- Everything `exec` can do, once for all commands: respond `OK`, or `BADLEN` with nothing changed. -/
theorem exec_eq (i : Instr) (s : State) :
    exec i s = .next (if i.wellFormed then (afterCommand i s).respond .ok (cfOf i) (resultsOf i)
      else s.reject .badLen) := by
  cases i <;> rfl

theorem exec_of_wellFormed {i : Instr} (h : i.wellFormed = true) (s : State) :
    exec i s = .next ((afterCommand i s).respond .ok (cfOf i) (resultsOf i)) := by
  rw [exec_eq, if_pos h]

theorem exec_of_not_wellFormed {i : Instr} (h : i.wellFormed = false) (s : State) :
    exec i s = .next (s.reject .badLen) := by
  rw [exec_eq, h]; rfl

@[simp] theorem afterCommand_inputs (i : Instr) (s : State) : (afterCommand i s).inputs = s.inputs := by
  cases i <;> simp [afterCommand]

@[simp] theorem afterCommand_responses (i : Instr) (s : State) : (afterCommand i s).responses = s.responses := by
  cases i <;> simp [afterCommand]

theorem afterCommand_eq_self {i : Instr} (h : i.op ≠ .sysSelimpl) (s : State) : afterCommand i s = s := by
  cases i <;> first | rfl | exact absurd rfl h

end Sys2Proof.Machine
end

