-- ==== Sys2Proof/Laws/PerInstr.lean ====
section
/-! SUPPORT. Per-instruction laws about commands as syntax: a well-formed command carries `INW(op)` operand words
(30_encoding.md R47). -/

namespace Sys2Proof.Laws

open Machine

theorem fp2Words_length {a : Fp2} (h : isFp2 a = true) : (fp2Words a).length = 4 := by
  simp [isFp2] at h; simp [fp2Words, h]

theorem edPointWords_length {P : EdPoint} (h : isEdPoint P = true) : (edPointWords P).length = 20 := by
  simp only [isEdPoint, Bool.and_eq_true] at h
  obtain ⟨⟨⟨⟨h1, h2⟩, h3⟩, h4⟩, h5⟩ := h
  simp [edPointWords, fp2Words_length, *]

theorem edEntryWords_length {Q : EdEntry} (h : isEdEntry Q = true) : (edEntryWords Q).length = 16 := by
  simp only [isEdEntry, Bool.and_eq_true] at h
  obtain ⟨⟨⟨h1, h2⟩, h3⟩, h4⟩ := h
  simp [edEntryWords, fp2Words_length, *]

theorem mlStateWords_length {S : MlState} (h : isMlState S = true) : (mlStateWords S).length = 5 * LF.nl := by
  simp only [isMlState, Bool.and_eq_true, isLimbs_iff] at h
  simp [mlStateWords, h]; omega

/-- A well-formed command carries exactly `INW(op)` operand words. -/
def OperandCount.Statement (i : Instr) : Prop := i.wellFormed = true → i.operands.length = i.op.inw

theorem OperandCount.sysSelimpl (surplus : List Word) : OperandCount.Statement (.sysSelimpl surplus) := by
  intro h; simp_all [Instr.wellFormed, Instr.operands, Instr.op, Op.inw]

theorem OperandCount.lv2Add (a : List Limb) (b : List Limb) : OperandCount.Statement (.lv2Add a b) := by
  intro h; simp_all [Instr.wellFormed, Instr.operands, Instr.op, Op.inw]

theorem OperandCount.lv2Sub (a : List Limb) (b : List Limb) : OperandCount.Statement (.lv2Sub a b) := by
  intro h; simp_all [Instr.wellFormed, Instr.operands, Instr.op, Op.inw]

theorem OperandCount.lv2Csel (flag : Bool) (a : List Limb) (b : List Limb) : OperandCount.Statement (.lv2Csel flag a b) := by
  intro h; simp_all [Instr.wellFormed, Instr.operands, Instr.op, Op.inw]

theorem OperandCount.lv2Cswap (flag : Bool) (a : List Limb) (b : List Limb) : OperandCount.Statement (.lv2Cswap flag a b) := by
  intro h; simp_all [Instr.wellFormed, Instr.operands, Instr.op, Op.inw]

theorem OperandCount.lv6Add (a : List Limb) (b : List Limb) : OperandCount.Statement (.lv6Add a b) := by
  intro h; simp_all [Instr.wellFormed, Instr.operands, Instr.op, Op.inw]

theorem OperandCount.lv6Sub (a : List Limb) (b : List Limb) : OperandCount.Statement (.lv6Sub a b) := by
  intro h; simp_all [Instr.wellFormed, Instr.operands, Instr.op, Op.inw]

theorem OperandCount.lv6Csel (flag : Bool) (a : List Limb) (b : List Limb) : OperandCount.Statement (.lv6Csel flag a b) := by
  intro h; simp_all [Instr.wellFormed, Instr.operands, Instr.op, Op.inw]

theorem OperandCount.lv6Cswap (flag : Bool) (a : List Limb) (b : List Limb) : OperandCount.Statement (.lv6Cswap flag a b) := by
  intro h; simp_all [Instr.wellFormed, Instr.operands, Instr.op, Op.inw]

theorem OperandCount.f127Add (a : List Limb) (b : List Limb) : OperandCount.Statement (.f127Add a b) := by
  intro h; simp_all [Instr.wellFormed, Instr.operands, Instr.op, Op.inw]

theorem OperandCount.f127Sub (a : List Limb) (b : List Limb) : OperandCount.Statement (.f127Sub a b) := by
  intro h; simp_all [Instr.wellFormed, Instr.operands, Instr.op, Op.inw]

theorem OperandCount.f127Neg (a : List Limb) : OperandCount.Statement (.f127Neg a) := by
  intro h; simp_all [Instr.wellFormed, Instr.operands, Instr.op, Op.inw]

theorem OperandCount.f127Mul (a : List Limb) (b : List Limb) : OperandCount.Statement (.f127Mul a b) := by
  intro h; simp_all [Instr.wellFormed, Instr.operands, Instr.op, Op.inw]

theorem OperandCount.f127Sqr (a : List Limb) : OperandCount.Statement (.f127Sqr a) := by
  intro h; simp_all [Instr.wellFormed, Instr.operands, Instr.op, Op.inw]

theorem OperandCount.f127Csel (flag : Bool) (a : List Limb) (b : List Limb) : OperandCount.Statement (.f127Csel flag a b) := by
  intro h; simp_all [Instr.wellFormed, Instr.operands, Instr.op, Op.inw]

theorem OperandCount.f127Canon (a : List Limb) : OperandCount.Statement (.f127Canon a) := by
  intro h; simp_all [Instr.wellFormed, Instr.operands, Instr.op, Op.inw]

theorem OperandCount.f384Add (a : List Limb) (b : List Limb) : OperandCount.Statement (.f384Add a b) := by
  intro h; simp_all [Instr.wellFormed, Instr.operands, Instr.op, Op.inw]

theorem OperandCount.f384Sub (a : List Limb) (b : List Limb) : OperandCount.Statement (.f384Sub a b) := by
  intro h; simp_all [Instr.wellFormed, Instr.operands, Instr.op, Op.inw]

theorem OperandCount.f384Neg (a : List Limb) : OperandCount.Statement (.f384Neg a) := by
  intro h; simp_all [Instr.wellFormed, Instr.operands, Instr.op, Op.inw]

theorem OperandCount.f384Mul (a : List Limb) (b : List Limb) : OperandCount.Statement (.f384Mul a b) := by
  intro h; simp_all [Instr.wellFormed, Instr.operands, Instr.op, Op.inw]

theorem OperandCount.f384Sqr (a : List Limb) : OperandCount.Statement (.f384Sqr a) := by
  intro h; simp_all [Instr.wellFormed, Instr.operands, Instr.op, Op.inw]

theorem OperandCount.f384Csel (flag : Bool) (a : List Limb) (b : List Limb) : OperandCount.Statement (.f384Csel flag a b) := by
  intro h; simp_all [Instr.wellFormed, Instr.operands, Instr.op, Op.inw]

theorem OperandCount.f384Canon (a : List Limb) : OperandCount.Statement (.f384Canon a) := by
  intro h; simp_all [Instr.wellFormed, Instr.operands, Instr.op, Op.inw]

theorem OperandCount.fp2Add (a : Fp2) (b : Fp2) : OperandCount.Statement (.fp2Add a b) := by
  intro h; simp_all [Instr.wellFormed, Instr.operands, Instr.op, Op.inw, fp2Words_length]

theorem OperandCount.fp2Sub (a : Fp2) (b : Fp2) : OperandCount.Statement (.fp2Sub a b) := by
  intro h; simp_all [Instr.wellFormed, Instr.operands, Instr.op, Op.inw, fp2Words_length]

theorem OperandCount.fp2Neg (a : Fp2) : OperandCount.Statement (.fp2Neg a) := by
  intro h; simp_all [Instr.wellFormed, Instr.operands, Instr.op, Op.inw, fp2Words_length]

theorem OperandCount.fp2Mul (a : Fp2) (b : Fp2) : OperandCount.Statement (.fp2Mul a b) := by
  intro h; simp_all [Instr.wellFormed, Instr.operands, Instr.op, Op.inw, fp2Words_length]

theorem OperandCount.fp2Sqr (a : Fp2) : OperandCount.Statement (.fp2Sqr a) := by
  intro h; simp_all [Instr.wellFormed, Instr.operands, Instr.op, Op.inw, fp2Words_length]

theorem OperandCount.fp2Csel (flag : Bool) (a : Fp2) (b : Fp2) : OperandCount.Statement (.fp2Csel flag a b) := by
  intro h; simp_all [Instr.wellFormed, Instr.operands, Instr.op, Op.inw, fp2Words_length]

theorem OperandCount.fp2Canon (a : Fp2) : OperandCount.Statement (.fp2Canon a) := by
  intro h; simp_all [Instr.wellFormed, Instr.operands, Instr.op, Op.inw, fp2Words_length]

theorem OperandCount.edDbl (P : EdPoint) : OperandCount.Statement (.edDbl P) := by
  intro h; simp_all [Instr.wellFormed, Instr.operands, Instr.op, Op.inw, edPointWords_length]

theorem OperandCount.edAdd (P : EdPoint) (Q : EdEntry) : OperandCount.Statement (.edAdd P Q) := by
  intro h; simp_all [Instr.wellFormed, Instr.operands, Instr.op, Op.inw, edPointWords_length, edEntryWords_length]

theorem OperandCount.edMadd (P : EdPoint) (Q : EdEntry) : OperandCount.Statement (.edMadd P Q) := by
  intro h; simp_all [Instr.wellFormed, Instr.operands, Instr.op, Op.inw, edPointWords_length, edEntryWords_length]

theorem OperandCount.mlStep (flag : Bool) (S : MlState) : OperandCount.Statement (.mlStep flag S) := by
  intro h; exact mlStateWords_length h

theorem OperandCount.mlDbl (S : MlState) : OperandCount.Statement (.mlDbl S) := by
  intro h; exact mlStateWords_length h

theorem OperandCount.mlDadd (S : MlState) (fx : List Limb) : OperandCount.Statement (.mlDadd S fx) := by
  intro h; simp_all [Instr.wellFormed, Instr.operands, Instr.op, Op.inw, mlStateWords_length]; omega

end Sys2Proof.Laws
end

