-- ==== Sys2Proof/Laws/Step.lean ====
section
/-! SUPPORT. What one step can do: the four cases, as equations. -/

namespace Sys2Proof.Machine

theorem step_of_idle {s : State} (h : s.inputs = []) : step s = .next s := by
  unfold step; rw [h]

theorem step_of_reset {s : State} {rest : List Input} (h : s.inputs = .reset :: rest) :
    step s = .next (s.withInputs rest).applyReset := by
  unfold step; rw [h]

theorem step_of_command {s : State} {f : CommandFrame} {rest : List Input} {i : Instr}
    (h : s.inputs = .command f :: rest) (hd : decode f = .ok i) : step s = exec i (s.withInputs rest) := by
  unfold step; rw [h]; simp only [hd]

theorem step_of_illegal {s : State} {f : CommandFrame} {rest : List Input} {e : Reject}
    (h : s.inputs = .command f :: rest) (hd : decode f = .error e) :
    step s = .next ((s.withInputs rest).reject .illegal) := by
  unfold step; rw [h]; simp only [hd]

/-- Everything one step can do. -/
theorem step_cases (s : State) :
    (s.inputs = [] ∧ step s = .next s) ∨
    (∃ rest, s.inputs = .reset :: rest ∧ step s = .next (s.withInputs rest).applyReset) ∨
    (∃ f rest e, s.inputs = .command f :: rest ∧ decode f = .error e ∧
      step s = .next ((s.withInputs rest).reject .illegal)) ∨
    (∃ f rest i, s.inputs = .command f :: rest ∧ decode f = .ok i ∧ i.wellFormed = false ∧
      step s = .next ((s.withInputs rest).reject .badLen)) ∨
    (∃ f rest i, s.inputs = .command f :: rest ∧ decode f = .ok i ∧ i.wellFormed = true ∧
      step s = .next ((afterCommand i (s.withInputs rest)).respond .ok (cfOf i) (resultsOf i))) := by
  rcases h : s.inputs with _ | ⟨x, rest⟩
  · exact .inl ⟨rfl, step_of_idle h⟩
  · cases x with
    | reset => exact .inr (.inl ⟨rest, rfl, step_of_reset h⟩)
    | command f =>
      rcases hd : decode f with e | i
      · exact .inr (.inr (.inl ⟨f, rest, e, rfl, hd, step_of_illegal h hd⟩))
      · cases hw : i.wellFormed
        · exact .inr (.inr (.inr (.inl ⟨f, rest, i, rfl, hd, hw,
            (step_of_command h hd).trans (exec_of_not_wellFormed hw _)⟩)))
        · exact .inr (.inr (.inr (.inr ⟨f, rest, i, rfl, hd, hw,
            (step_of_command h hd).trans (exec_of_wellFormed hw _)⟩)))

end Sys2Proof.Machine
end

