-- ==== Sys2Proof/Tests/Slice0.lean ====
section
/-! SUPPORT. Tests: the WellFormed checks, the decoder on words written out from 30_encoding.md R42 and R47, the vectors
of 95_test_vectors.md, and a witness for the hypotheses of every statement. Every expected value is from the spec. -/

namespace Sys2Proof.Tests

open Machine
open Config (P127 P384_DEFAULT LadderParams)

set_option exponentiation.threshold 800
set_option Elab.async false

/-! ### WellFormed: one ill-formed term for each check, which it refuses -/

theorem test_wellFormed_sys_lv :
    ¬ (Instr.sysSelimpl [0]).WellFormed ∧
    ¬ (Instr.lv2Add [1] [1, 2]).WellFormed ∧ ¬ (Instr.lv2Add [1, 2] [1, 2, 3]).WellFormed ∧
    ¬ (Instr.lv2Sub [1, 2, 3] [1, 2]).WellFormed ∧ ¬ (Instr.lv2Sub [1, 2] []).WellFormed ∧
    ¬ (Instr.lv2Csel true [1] [1, 2]).WellFormed ∧ ¬ (Instr.lv2Csel true [1, 2] [1]).WellFormed ∧
    ¬ (Instr.lv2Cswap false [1] [1, 2]).WellFormed ∧ ¬ (Instr.lv2Cswap true [1, 2] [1]).WellFormed ∧
    ¬ (Instr.lv6Add [1, 2] (vec 6 1)).WellFormed ∧ ¬ (Instr.lv6Add (vec 6 1) (vec 7 1)).WellFormed ∧
    ¬ (Instr.lv6Sub (vec 5 1) (vec 6 1)).WellFormed ∧ ¬ (Instr.lv6Sub (vec 6 1) (vec 5 1)).WellFormed ∧
    ¬ (Instr.lv6Csel true (vec 5 1) (vec 6 1)).WellFormed ∧ ¬ (Instr.lv6Csel true (vec 6 1) (vec 7 1)).WellFormed ∧
    ¬ (Instr.lv6Cswap true (vec 7 1) (vec 6 1)).WellFormed ∧ ¬ (Instr.lv6Cswap true (vec 6 1) []).WellFormed := by
  decide

theorem test_wellFormed_f127 :
    ¬ (Instr.f127Add [1] [1, 2]).WellFormed ∧ ¬ (Instr.f127Add [1, 2] [1, 2, 3]).WellFormed ∧
    ¬ (Instr.f127Sub [1] [1, 2]).WellFormed ∧ ¬ (Instr.f127Sub [1, 2] [1]).WellFormed ∧
    ¬ (Instr.f127Neg [1]).WellFormed ∧
    ¬ (Instr.f127Mul [1] [1, 2]).WellFormed ∧ ¬ (Instr.f127Mul [1, 2] [1]).WellFormed ∧
    ¬ (Instr.f127Sqr [1, 2, 3]).WellFormed ∧
    ¬ (Instr.f127Csel true [1] [1, 2]).WellFormed ∧ ¬ (Instr.f127Csel true [1, 2] [1]).WellFormed ∧
    ¬ (Instr.f127Canon []).WellFormed := by
  decide

theorem test_wellFormed_f384 :
    ¬ (Instr.f384Add (vec 5 1) (vec 6 1)).WellFormed ∧ ¬ (Instr.f384Add (vec 6 1) (vec 7 1)).WellFormed ∧
    ¬ (Instr.f384Sub (vec 5 1) (vec 6 1)).WellFormed ∧ ¬ (Instr.f384Sub (vec 6 1) (vec 7 1)).WellFormed ∧
    ¬ (Instr.f384Neg (vec 2 1)).WellFormed ∧
    ¬ (Instr.f384Mul (vec 5 1) (vec 6 1)).WellFormed ∧ ¬ (Instr.f384Mul (vec 6 1) (vec 7 1)).WellFormed ∧
    ¬ (Instr.f384Sqr (vec 7 1)).WellFormed ∧
    ¬ (Instr.f384Csel true (vec 5 1) (vec 6 1)).WellFormed ∧ ¬ (Instr.f384Csel true (vec 6 1) (vec 7 1)).WellFormed ∧
    ¬ (Instr.f384Canon (vec 5 1)).WellFormed := by
  decide

/-- An FP2 value, and one with a component too short or too long. -/
def fp1 : Fp2 := ⟨[1, 0], [2, 0]⟩
def badRe : Fp2 := ⟨[1], [2, 0]⟩
def badIm : Fp2 := ⟨[1, 0], [2, 0, 0]⟩

theorem test_wellFormed_fp2 :
    ¬ (Instr.fp2Add badRe fp1).WellFormed ∧ ¬ (Instr.fp2Add fp1 badIm).WellFormed ∧
    ¬ (Instr.fp2Sub badIm fp1).WellFormed ∧ ¬ (Instr.fp2Sub fp1 badRe).WellFormed ∧
    ¬ (Instr.fp2Neg badRe).WellFormed ∧ ¬ (Instr.fp2Neg badIm).WellFormed ∧
    ¬ (Instr.fp2Mul badRe fp1).WellFormed ∧ ¬ (Instr.fp2Mul fp1 badIm).WellFormed ∧
    ¬ (Instr.fp2Sqr badRe).WellFormed ∧ ¬ (Instr.fp2Sqr badIm).WellFormed ∧
    ¬ (Instr.fp2Csel true badRe fp1).WellFormed ∧ ¬ (Instr.fp2Csel true fp1 badIm).WellFormed ∧
    ¬ (Instr.fp2Canon badRe).WellFormed ∧ ¬ (Instr.fp2Canon badIm).WellFormed := by
  decide

def pt1 : EdPoint := ⟨fp1, fp1, fp1, fp1, fp1⟩
def entry1 : EdEntry := ⟨fp1, fp1, fp1, fp1⟩

theorem test_wellFormed_ed :
    ¬ (Instr.edDbl { pt1 with X := badRe }).WellFormed ∧ ¬ (Instr.edDbl { pt1 with Y := badIm }).WellFormed ∧
    ¬ (Instr.edDbl { pt1 with Z := badRe }).WellFormed ∧ ¬ (Instr.edDbl { pt1 with Ta := badIm }).WellFormed ∧
    ¬ (Instr.edDbl { pt1 with Tb := badRe }).WellFormed ∧
    ¬ (Instr.edAdd { pt1 with X := badRe } entry1).WellFormed ∧
    ¬ (Instr.edAdd pt1 { entry1 with sumYX := badRe }).WellFormed ∧
    ¬ (Instr.edAdd pt1 { entry1 with diffYX := badRe }).WellFormed ∧
    ¬ (Instr.edAdd pt1 { entry1 with doubledZ := badIm }).WellFormed ∧
    ¬ (Instr.edAdd pt1 { entry1 with doubledTProduct := badIm }).WellFormed ∧
    ¬ (Instr.edMadd { pt1 with Tb := badIm } entry1).WellFormed ∧
    ¬ (Instr.edMadd pt1 { entry1 with doubledZ := badRe }).WellFormed := by
  decide

/-- A ladder state of the build's width, and one with a limb too many in each element in turn. -/
def ml1 : MlState := ⟨vec LF.nl 1, vec LF.nl 1, vec LF.nl 0, vec LF.nl 1, vec LF.nl 1⟩
def badLfe : List Limb := vec (LF.nl + 1) 1

theorem test_wellFormed_ml (f : Bool) :
    ¬ (Instr.mlStep f { ml1 with x1 := badLfe }).WellFormed ∧ ¬ (Instr.mlStep f { ml1 with x2 := badLfe }).WellFormed ∧
    ¬ (Instr.mlStep f { ml1 with z2 := badLfe }).WellFormed ∧ ¬ (Instr.mlStep f { ml1 with x3 := badLfe }).WellFormed ∧
    ¬ (Instr.mlStep f { ml1 with z3 := badLfe }).WellFormed ∧ ¬ (Instr.mlDbl { ml1 with x2 := badLfe }).WellFormed ∧
    ¬ (Instr.mlDadd { ml1 with z3 := badLfe } (vec LF.nl 1)).WellFormed ∧
    ¬ (Instr.mlDadd ml1 badLfe).WellFormed := by
  simp [Instr.WellFormed, Instr.wellFormed, isMlState, isLimbs, badLfe, ml1]

/-! ### Decoding: a word of every command, from the columns OPC and FLAG of R47 -/

theorem test_decode_sys_lv :
    decode ⟨0x01, []⟩ = .ok (.sysSelimpl []) ∧
    decode ⟨0x10, [1, 2, 3, 4]⟩ = .ok (.lv2Add [1, 2] [3, 4]) ∧
    decode ⟨0x11, [1, 2, 3, 4]⟩ = .ok (.lv2Sub [1, 2] [3, 4]) ∧
    decode ⟨0x112, [1, 2, 3, 4]⟩ = .ok (.lv2Csel true [1, 2] [3, 4]) ∧
    decode ⟨0x013, [1, 2, 3, 4]⟩ = .ok (.lv2Cswap false [1, 2] [3, 4]) ∧
    decode ⟨0x20, [1, 2, 3, 4, 5, 6, 7, 8, 9, 10, 11, 12]⟩ = .ok (.lv6Add [1, 2, 3, 4, 5, 6] [7, 8, 9, 10, 11, 12]) ∧
    decode ⟨0x21, [1, 2, 3, 4, 5, 6, 7, 8, 9, 10, 11, 12]⟩ = .ok (.lv6Sub [1, 2, 3, 4, 5, 6] [7, 8, 9, 10, 11, 12]) ∧
    decode ⟨0x22, [1, 2, 3, 4, 5, 6, 7, 8, 9, 10, 11, 12]⟩ =
      .ok (.lv6Csel false [1, 2, 3, 4, 5, 6] [7, 8, 9, 10, 11, 12]) ∧
    decode ⟨0x123, [1, 2, 3, 4, 5, 6, 7, 8, 9, 10, 11, 12]⟩ =
      .ok (.lv6Cswap true [1, 2, 3, 4, 5, 6] [7, 8, 9, 10, 11, 12]) := by
  refine ⟨?_, ?_, ?_, ?_, ?_, ?_, ?_, ?_, ?_⟩ <;> rfl

theorem test_decode_f127 :
    decode ⟨0x30, [1, 2, 3, 4]⟩ = .ok (.f127Add [1, 2] [3, 4]) ∧
    decode ⟨0x31, [1, 2, 3, 4]⟩ = .ok (.f127Sub [1, 2] [3, 4]) ∧
    decode ⟨0x32, [1, 2]⟩ = .ok (.f127Neg [1, 2]) ∧
    decode ⟨0x33, [1, 2, 3, 4]⟩ = .ok (.f127Mul [1, 2] [3, 4]) ∧
    decode ⟨0x34, [1, 2]⟩ = .ok (.f127Sqr [1, 2]) ∧
    decode ⟨0x135, [1, 2, 3, 4]⟩ = .ok (.f127Csel true [1, 2] [3, 4]) ∧
    decode ⟨0x36, [1, 2]⟩ = .ok (.f127Canon [1, 2]) := by
  refine ⟨?_, ?_, ?_, ?_, ?_, ?_, ?_⟩ <;> rfl

theorem test_decode_f384 :
    decode ⟨0x40, [1, 2, 3, 4, 5, 6, 7, 8, 9, 10, 11, 12]⟩ = .ok (.f384Add [1, 2, 3, 4, 5, 6] [7, 8, 9, 10, 11, 12]) ∧
    decode ⟨0x41, [1, 2, 3, 4, 5, 6, 7, 8, 9, 10, 11, 12]⟩ = .ok (.f384Sub [1, 2, 3, 4, 5, 6] [7, 8, 9, 10, 11, 12]) ∧
    decode ⟨0x42, [1, 2, 3, 4, 5, 6]⟩ = .ok (.f384Neg [1, 2, 3, 4, 5, 6]) ∧
    decode ⟨0x43, [1, 2, 3, 4, 5, 6, 7, 8, 9, 10, 11, 12]⟩ = .ok (.f384Mul [1, 2, 3, 4, 5, 6] [7, 8, 9, 10, 11, 12]) ∧
    decode ⟨0x44, [1, 2, 3, 4, 5, 6]⟩ = .ok (.f384Sqr [1, 2, 3, 4, 5, 6]) ∧
    decode ⟨0x145, [1, 2, 3, 4, 5, 6, 7, 8, 9, 10, 11, 12]⟩ =
      .ok (.f384Csel true [1, 2, 3, 4, 5, 6] [7, 8, 9, 10, 11, 12]) ∧
    decode ⟨0x46, [1, 2, 3, 4, 5, 6]⟩ = .ok (.f384Canon [1, 2, 3, 4, 5, 6]) := by
  refine ⟨?_, ?_, ?_, ?_, ?_, ?_, ?_⟩ <;> rfl

theorem test_decode_fp2 :
    decode ⟨0x50, [1, 2, 3, 4, 5, 6, 7, 8]⟩ = .ok (.fp2Add ⟨[1, 2], [3, 4]⟩ ⟨[5, 6], [7, 8]⟩) ∧
    decode ⟨0x51, [1, 2, 3, 4, 5, 6, 7, 8]⟩ = .ok (.fp2Sub ⟨[1, 2], [3, 4]⟩ ⟨[5, 6], [7, 8]⟩) ∧
    decode ⟨0x52, [1, 2, 3, 4]⟩ = .ok (.fp2Neg ⟨[1, 2], [3, 4]⟩) ∧
    decode ⟨0x53, [1, 2, 3, 4, 5, 6, 7, 8]⟩ = .ok (.fp2Mul ⟨[1, 2], [3, 4]⟩ ⟨[5, 6], [7, 8]⟩) ∧
    decode ⟨0x54, [1, 2, 3, 4]⟩ = .ok (.fp2Sqr ⟨[1, 2], [3, 4]⟩) ∧
    decode ⟨0x155, [1, 2, 3, 4, 5, 6, 7, 8]⟩ = .ok (.fp2Csel true ⟨[1, 2], [3, 4]⟩ ⟨[5, 6], [7, 8]⟩) ∧
    decode ⟨0x56, [1, 2, 3, 4]⟩ = .ok (.fp2Canon ⟨[1, 2], [3, 4]⟩) := by
  refine ⟨?_, ?_, ?_, ?_, ?_, ?_, ?_⟩ <;> rfl

/-- The words 1, 2, ..., 20 as a point and 21, ..., 36 as an entry, in the component order of R33. -/
def ptCount : EdPoint :=
  ⟨⟨[1, 2], [3, 4]⟩, ⟨[5, 6], [7, 8]⟩, ⟨[9, 10], [11, 12]⟩, ⟨[13, 14], [15, 16]⟩, ⟨[17, 18], [19, 20]⟩⟩
def entryCount : EdEntry :=
  ⟨⟨[21, 22], [23, 24]⟩, ⟨[25, 26], [27, 28]⟩, ⟨[29, 30], [31, 32]⟩, ⟨[33, 34], [35, 36]⟩⟩
def words20 : List Word := [1, 2, 3, 4, 5, 6, 7, 8, 9, 10, 11, 12, 13, 14, 15, 16, 17, 18, 19, 20]
def words16 : List Word := [21, 22, 23, 24, 25, 26, 27, 28, 29, 30, 31, 32, 33, 34, 35, 36]

theorem test_decode_ed :
    decode ⟨0x60, words20⟩ = .ok (.edDbl ptCount) ∧
    decode ⟨0x61, words20 ++ words16⟩ = .ok (.edAdd ptCount entryCount) ∧
    decode ⟨0x62, words20 ++ words16⟩ = .ok (.edMadd ptCount entryCount) := by
  refine ⟨?_, ?_, ?_⟩ <;> rfl

/-- Whatever the width `NL` of the build. -/
theorem test_decode_ml (x1 x2 z2 x3 z3 fx : List Limb) (h1 : x1.length = LF.nl) (h2 : x2.length = LF.nl)
    (h3 : z2.length = LF.nl) (h4 : x3.length = LF.nl) (h5 : z3.length = LF.nl) :
    decode ⟨0x170, x1 ++ x2 ++ z2 ++ x3 ++ z3⟩ = .ok (.mlStep true ⟨x1, x2, z2, x3, z3⟩) ∧
    decode ⟨0x71, x1 ++ x2 ++ z2 ++ x3 ++ z3⟩ = .ok (.mlDbl ⟨x1, x2, z2, x3, z3⟩) ∧
    decode ⟨0x72, x1 ++ x2 ++ z2 ++ x3 ++ z3 ++ fx⟩ = .ok (.mlDadd ⟨x1, x2, z2, x3, z3⟩ fx) := by
  have w := mlStateOfWords_words (S := ⟨x1, x2, z2, x3, z3⟩) (by simp [isMlState, *])
  have l : (x1 ++ x2 ++ z2 ++ x3 ++ z3).length = 5 * LF.nl := by simp [*]; omega
  change mlStateOfWords (x1 ++ x2 ++ z2 ++ x3 ++ z3) = _ at w
  refine ⟨?_, ?_, ?_⟩
  · rw [← w]; exact decode_commandWord (op := .mlStep) (flag := true) rfl _
  · rw [← w]; exact decode_commandWord (op := .mlDbl) (flag := false) rfl _
  · refine (decode_commandWord (op := .mlDadd) (flag := false) rfl _).trans ?_
    simp only [Op.command, List.take_left' l, List.drop_left' l, w]

theorem test_decode_rejects :
    decode ⟨0x0, []⟩ = .error .unassignedOpcode ∧ decode ⟨0x2, []⟩ = .error .unassignedOpcode ∧
    decode ⟨0x14, [1, 0, 2, 0]⟩ = .error .unassignedOpcode ∧ decode ⟨0x130, [1, 0, 2, 0]⟩ = .error .flagNotTaken ∧
    decode ⟨0x230, [1, 0, 2, 0]⟩ = .error .reservedBits ∧
    decode ⟨0x8000000000000030, [1, 0, 2, 0]⟩ = .error .reservedBits ∧ decode ⟨0x101, []⟩ = .error .flagNotTaken := by
  refine ⟨?_, ?_, ?_, ?_, ?_, ?_, ?_⟩ <;> rfl

/-- Every row of the opcode table, as the host gives it, decodes to its own command. -/
theorem test_table_rows :
    (Op.all.zip opcodeColumn).all (fun p => (decodeTableWord 64 p.2).map Instr.op == some p.1) = true := by
  decide +kernel

/-- And the machine runs it as the first command after reset. -/
theorem test_table_rows_step :
    opcodeColumn.all (fun w => match step (State.reset.withFetchWord 64 w) with
      | .next _ => true | .fault _ => false | .refused _ => false) = true := by
  decide +kernel

theorem test_byte_image :
    bytesOfFrame ⟨0x0807060504030201, [0x11]⟩ = [1, 2, 3, 4, 5, 6, 7, 8, 0x11, 0, 0, 0, 0, 0, 0, 0] ∧
    frameOfBytes [1, 2, 3, 4, 5, 6, 7, 8, 0x11, 0, 0, 0, 0, 0, 0, 0] = some ⟨0x0807060504030201, [0x11]⟩ ∧
    frameOfBytes [1, 2, 3, 4, 5, 6, 7] = none := by
  decide +kernel

/-! ### Vectors of 95_test_vectors.md: the reply of a CORE just reset -/

def reply (f : CommandFrame) : List ResponseFrame := (answerAlone Cfg.reset f).2

theorem test_illegal_and_badlen :
    reply ⟨0x14, [1, 0, 2, 0]⟩ = [{ sw := 1, results := [] }] ∧
    reply ⟨0x130, [1]⟩ = [{ sw := 1, results := [] }] ∧
    reply ⟨0x30, [1, 0, 2]⟩ = [{ sw := 2, results := [] }] ∧
    reply ⟨0x30, [1, 0, 2, 0, 0]⟩ = [{ sw := 2, results := [] }] := by
  decide +kernel

/-- V-SYS-1 and V-SYS-2, whichever the build. -/
theorem test_sysSelimpl :
    answerAlone Cfg.reset ⟨0x1, []⟩ =
      (⟨Config.HAS_MAC, true⟩, [{ sw := if Config.HAS_MAC then 0x600 else 0x400, results := [] }]) := by
  have h : step { cfg := Cfg.reset, inputs := [.command ⟨0x1, []⟩], responses := [] } =
      exec (.sysSelimpl []) { cfg := Cfg.reset, inputs := [], responses := [] } := step_of_command (rest := []) rfl rfl
  rw [answerAlone, h]
  cases hm : Config.HAS_MAC <;>
    simp [exec, execSysSelimpl, isLimbs, State.selectImpl, hm, Cfg.reset, State.respond] <;> decide

/-- The second issue of V-SYS-3, on a CORE that has selected the accelerated path. -/
theorem test_sysSelimpl_again :
    answerAlone ⟨true, true⟩ ⟨0x1, []⟩ = (⟨true, true⟩, [{ sw := 0x600, results := [] }]) := by decide +kernel

/-- V-ENC-10. -/
theorem test_sysSelimplSurplus :
    reply ⟨0x1, [0]⟩ =
      [{ sw := 0x2, results := [] }] := by decide +kernel

/-- V-LV-1 and V-LV-2. -/
theorem test_lv2Add :
    reply ⟨0x10, [0xFFFFFFFFFFFFFFFF, 0xFFFFFFFFFFFFFFFF, 0xFFFFFFFFFFFFFFFF, 0xFFFFFFFFFFFFFFFF]⟩ =
      [{ sw := 0x100, results := [0xFFFFFFFFFFFFFFFE, 0xFFFFFFFFFFFFFFFF] }] ∧
    reply ⟨0x10, [0xFFFFFFFFFFFFFFFF, 0, 1, 0]⟩ =
      [{ sw := 0x0, results := [0, 1] }] := by decide +kernel

/-- V-LV-5 and V-LV-6. -/
theorem test_lv2Sub :
    reply ⟨0x11, [0, 0, 1, 0]⟩ =
      [{ sw := 0x100, results := [0xFFFFFFFFFFFFFFFF, 0xFFFFFFFFFFFFFFFF] }] ∧
    reply ⟨0x11, [0, 1, 1, 0]⟩ =
      [{ sw := 0x0, results := [0xFFFFFFFFFFFFFFFF, 0] }] := by decide +kernel

/-- V-ENC-11 and V-ENC-12. -/
theorem test_lv2Csel :
    reply ⟨0x112, [1, 2, 3, 4]⟩ =
      [{ sw := 0x0, results := [1, 2] }] ∧
    reply ⟨0x12, [1, 2, 3, 4]⟩ =
      [{ sw := 0x0, results := [3, 4] }] := by decide +kernel

/-- V-LV-9 and V-LV-10. -/
theorem test_lv2Cswap :
    reply ⟨0x113, [1, 2, 3, 4]⟩ =
      [{ sw := 0x0, results := [3, 4, 1, 2] }] ∧
    reply ⟨0x13, [1, 2, 3, 4]⟩ =
      [{ sw := 0x0, results := [1, 2, 3, 4] }] := by decide +kernel

/-- V-LV-11 and V-LV-12. -/
theorem test_lv6Add :
    reply ⟨0x20, [0xFFFFFFFFFFFFFFFF, 0xFFFFFFFFFFFFFFFF, 0xFFFFFFFFFFFFFFFF, 0xFFFFFFFFFFFFFFFF, 0xFFFFFFFFFFFFFFFF,
      0xFFFFFFFFFFFFFFFF, 1, 0, 0, 0, 0, 0]⟩ =
      [{ sw := 0x100, results := [0, 0, 0, 0, 0, 0] }] ∧
    reply ⟨0x20, [0, 0, 0xFFFFFFFFFFFFFFFF, 0, 0, 0, 0, 0, 1, 0, 0, 0]⟩ =
      [{ sw := 0x0, results := [0, 0, 0, 1, 0, 0] }] := by decide +kernel

/-- V-LV-13 and V-LV-14. -/
theorem test_lv6Sub :
    reply ⟨0x21, [0, 0, 0, 0, 0, 0, 1, 0, 0, 0, 0, 0]⟩ =
      [{ sw := 0x100, results := [0xFFFFFFFFFFFFFFFF, 0xFFFFFFFFFFFFFFFF, 0xFFFFFFFFFFFFFFFF, 0xFFFFFFFFFFFFFFFF,
        0xFFFFFFFFFFFFFFFF, 0xFFFFFFFFFFFFFFFF] }] ∧
    reply ⟨0x21, [0, 0, 0, 0, 0, 1, 1, 0, 0, 0, 0, 0]⟩ =
      [{ sw := 0x0, results := [0xFFFFFFFFFFFFFFFF, 0xFFFFFFFFFFFFFFFF, 0xFFFFFFFFFFFFFFFF, 0xFFFFFFFFFFFFFFFF,
        0xFFFFFFFFFFFFFFFF, 0] }] := by decide +kernel

/-- V-LV-15. -/
theorem test_lv6Csel :
    reply ⟨0x22, [1, 2, 3, 4, 5, 6, 16, 32, 48, 64, 80, 96]⟩ =
      [{ sw := 0x0, results := [16, 32, 48, 64, 80, 96] }] := by decide +kernel

/-- V-LV-16. -/
theorem test_lv6Cswap :
    reply ⟨0x123, [1, 2, 3, 4, 5, 6, 16, 32, 48, 64, 80, 96]⟩ =
      [{ sw := 0x0, results := [16, 32, 48, 64, 80, 96, 1, 2, 3, 4, 5, 6] }] := by decide +kernel

/-- V-F127-6 and V-F127-31. -/
theorem test_f127Add :
    reply ⟨0x30, [0xFEDCBA9876543210, 0x123456789ABCDEF, 0xF1E2D3C4B5A6978, 0x7EDCBA9876543210]⟩ =
      [{ sw := 0x0, results := [0xDFAE7D4C1AE9B89, 0] }] ∧
    reply ⟨0x30, [0xFFFFFFFFFFFFFFFF, 0xFFFFFFFFFFFFFFFF, 0, 0]⟩ =
      [{ sw := 0x0, results := [1, 0] }] := by decide +kernel

/-- V-F127-9 and V-F127-11. -/
theorem test_f127Sub :
    reply ⟨0x31, [0, 0, 0xFFFFFFFFFFFFFFFF, 0x7FFFFFFFFFFFFFFF]⟩ =
      [{ sw := 0x0, results := [0, 0] }] ∧
    reply ⟨0x31, [0xFEDCBA9876543210, 0x123456789ABCDEF, 0xF1E2D3C4B5A6978, 0x7EDCBA9876543210]⟩ =
      [{ sw := 0x0, results := [0xEFBE8D5C2AF9C897, 0x2468ACF13579BDF] }] := by decide +kernel

/-- V-F127-15 and V-F127-34. -/
theorem test_f127Neg :
    reply ⟨0x32, [0xFEDCBA9876543210, 0x123456789ABCDEF]⟩ =
      [{ sw := 0x0, results := [0x123456789ABCDEF, 0x7EDCBA9876543210] }] ∧
    reply ⟨0x32, [0, 0x8000000000000000]⟩ =
      [{ sw := 0x0, results := [1, 0] }] := by decide +kernel

/-- V-F127-22 and V-F127-35. -/
theorem test_f127Mul :
    reply ⟨0x33, [0xFEDCBA9876543210, 0x123456789ABCDEF, 0xF1E2D3C4B5A6978, 0x7EDCBA9876543210]⟩ =
      [{ sw := 0x0, results := [0xDBD5AE8885C872A6, 0x454F180680EDB337] }] ∧
    reply ⟨0x33, [0xFFFFFFFFFFFFFFFF, 0xFFFFFFFFFFFFFFFF, 0xFFFFFFFFFFFFFFFF, 0xFFFFFFFFFFFFFFFF]⟩ =
      [{ sw := 0x0, results := [0xFFFFFFFFFFFFFFFE, 0x7FFFFFFFFFFFFFFF] }] := by decide +kernel

/-- V-F127-24. -/
theorem test_f127Sqr :
    reply ⟨0x34, [0xFEDCBA9876543210, 0x123456789ABCDEF]⟩ =
      [{ sw := 0x0, results := [0x9CC018EB7C0EE84C, 0x422B08854C076206] }] := by decide +kernel

/-- V-F127-26 and V-F127-36. -/
theorem test_f127Canon :
    reply ⟨0x36, [0xFFFFFFFFFFFFFFFF, 0x7FFFFFFFFFFFFFFF]⟩ =
      [{ sw := 0x0, results := [0, 0] }] ∧
    reply ⟨0x36, [0xFFFFFFFFFFFFFFFE, 0xFFFFFFFFFFFFFFFF]⟩ =
      [{ sw := 0x0, results := [0xFFFFFFFFFFFFFFFF, 0x7FFFFFFFFFFFFFFF] }] := by decide +kernel

/-- V-FP2-1 and V-FP2-2. -/
theorem test_fp2Add :
    reply ⟨0x50, [1, 0, 2, 0, 3, 0, 4, 0]⟩ =
      [{ sw := 0x0, results := [4, 0, 6, 0] }] ∧
    reply ⟨0x50, [0xFFFFFFFFFFFFFFFE, 0x7FFFFFFFFFFFFFFF, 0, 0, 1, 0, 0, 0]⟩ =
      [{ sw := 0x0, results := [0xFFFFFFFFFFFFFFFF, 0x7FFFFFFFFFFFFFFF, 0, 0] }] := by decide +kernel

/-- V-FP2-3 and V-FP2-4. -/
theorem test_fp2Sub :
    reply ⟨0x51, [3, 0, 4, 0, 1, 0, 2, 0]⟩ =
      [{ sw := 0x0, results := [2, 0, 2, 0] }] ∧
    reply ⟨0x51, [1, 0, 2, 0, 1, 0, 2, 0]⟩ =
      [{ sw := 0x0, results := [0xFFFFFFFFFFFFFFFF, 0x7FFFFFFFFFFFFFFF, 0xFFFFFFFFFFFFFFFF, 0x7FFFFFFFFFFFFFFF] }] := by decide +kernel

/-- V-FP2-5 and V-FP2-6. -/
theorem test_fp2Neg :
    reply ⟨0x52, [1, 0, 2, 0]⟩ =
      [{ sw := 0x0, results := [0xFFFFFFFFFFFFFFFE, 0x7FFFFFFFFFFFFFFF, 0xFFFFFFFFFFFFFFFD, 0x7FFFFFFFFFFFFFFF] }] ∧
    reply ⟨0x52, [0, 0, 0, 0]⟩ =
      [{ sw := 0x0, results := [0xFFFFFFFFFFFFFFFF, 0x7FFFFFFFFFFFFFFF, 0xFFFFFFFFFFFFFFFF, 0x7FFFFFFFFFFFFFFF] }] := by decide +kernel

/-- V-FP2-18 and V-FP2-10. -/
theorem test_fp2Mul :
    reply ⟨0x53, [0xFEDCBA9876543210, 0x123456789ABCDEF, 0xF1E2D3C4B5A6978, 0x7EDCBA9876543210, 0xF1E2D3C4B5A692D,
      0x7EDCBA9876543210, 0xFEDCBA98765432BA, 0x123456789ABCDEF]⟩ =
      [{ sw := 0x0, results := [0x4B4B4B4B4B4B4AF6, 0x6C16C16C16C16C06, 0x4310E207D396A233, 0xCE6AD7EF8B85B69] }] ∧
    reply ⟨0x53, [0, 0, 0, 0, 3, 0, 4, 0]⟩ =
      [{ sw := 0x0, results := [0xFFFFFFFFFFFFFFFF, 0x7FFFFFFFFFFFFFFF, 0, 0] }] := by decide +kernel

/-- V-FP2-19 and V-FP2-13. -/
theorem test_fp2Sqr :
    reply ⟨0x54, [0xFEDCBA9876543210, 0x123456789ABCDEF, 0xF1E2D3C4B5A6978, 0x7EDCBA9876543210]⟩ =
      [{ sw := 0x0, results := [0xC72BF863A4F38695, 0xE30CFA260C27F4E, 0xB7AB5D110B90E54D, 0xA9E300D01DB666F] }] ∧
    reply ⟨0x54, [1, 0, 1, 0]⟩ =
      [{ sw := 0x0, results := [0xFFFFFFFFFFFFFFFF, 0x7FFFFFFFFFFFFFFF, 2, 0] }] := by decide +kernel

/-- V-FP2-16. -/
theorem test_fp2Canon :
    reply ⟨0x56, [0xFFFFFFFFFFFFFFFF, 0x7FFFFFFFFFFFFFFF, 5, 0]⟩ =
      [{ sw := 0x0, results := [0, 0, 5, 0] }] := by decide +kernel

/-- V-ED-1 and V-ED-4. -/
theorem test_edDbl :
    reply ⟨0x60, [1, 0, 2, 0, 3, 0, 4, 0, 1, 0, 0, 0, 7, 0, 0, 0, 9, 0, 0, 0]⟩ =
      [{ sw := 0x0, results := [0x154, 0, 0x140, 0, 0xFFFFFFFFFFFFFDF7, 0x7FFFFFFFFFFFFFFF, 0xFFFFFFFFFFFFFEC7,
        0x7FFFFFFFFFFFFFFF, 0x178, 0, 0xC8, 0, 0xFFFFFFFFFFFFFFF5, 0x7FFFFFFFFFFFFFFF, 28, 0, 0xFFFFFFFFFFFFFFF5,
        0x7FFFFFFFFFFFFFFF, 20, 0] }] ∧
    reply ⟨0x60, [5, 0, 5, 0, 0xC8CE991486C8CB60, 0x4AECD0EE93FB4184, 0x18906F49762C9CC7, 0x375BB4B3AC47823E, 3, 0,
      1, 0, 5, 0, 5, 0, 0xD84C6C40B440B317, 0x28D037265738ED7A, 0xC016ABAD95F94DE5, 0x2F83D48471AF86EB]⟩ =
      [{ sw := 0x0, results := [0x8C83EEC8420E7878, 0x4AA583151E1055D4, 0xC3DF8660027C7647, 0x34711CF7D3340EF,
        0xD1FCE12239A796C4, 0x2030AD9D6F469DFD, 0xD97142712D96F3B4, 0x5D5FF8A9FA4F873D, 0xCBF306DCAF05FB06,
        0x4DDFF60CE9EBFB94, 0xABF1E4F9574086DB, 0x9879D7FC1C4A838, 0xF0B97CCB7D9CFB7E, 0x50E0C46604A31EAF,
        0xD343C8E639029796, 0x48491A987B4B6C27, 0xE26DA1EEA619D1FB, 0x43AB1A4D0D0578C2, 0xCDB653ABE1961190,
        0x16D53856829BA59C] }] := by decide +kernel

/-- V-ED-2 and V-ED-4. -/
theorem test_edAdd :
    reply ⟨0x61, [1, 0, 2, 0, 3, 0, 4, 0, 1, 0, 0, 0, 7, 0, 0, 0, 9, 0, 0, 0, 5, 0, 1, 0, 2, 0, 3, 0, 2, 0, 0, 0, 1,
      0, 1, 0]⟩ =
      [{ sw := 0x0, results := [0x218, 0, 0xFFFFFFFFFFFFF657, 0x7FFFFFFFFFFFFFFF, 0xFFFFFFFFFFFFF837,
        0x7FFFFFFFFFFFFFFF, 0xE20, 0, 4, 0, 0xFFFFFFFFFFFFE0FD, 0x7FFFFFFFFFFFFFFF, 16, 0, 24, 0, 12, 0, 44, 0] }] ∧
    reply ⟨0x61, [5, 0, 5, 0, 0xC8CE991486C8CB60, 0x4AECD0EE93FB4184, 0x18906F49762C9CC7, 0x375BB4B3AC47823E, 3, 0,
      1, 0, 5, 0, 5, 0, 0xD84C6C40B440B317, 0x28D037265738ED7A, 0xC016ABAD95F94DE5, 0x2F83D48471AF86EB,
      0xC8CE991486C8CB65, 0x4AECD0EE93FB4184, 0x18906F49762C9CCC, 0x375BB4B3AC47823E, 0xC8CE991486C8CB5B,
      0x4AECD0EE93FB4184, 0x18906F49762C9CC2, 0x375BB4B3AC47823E, 6, 0, 2, 0, 0xF6711939E157EA9, 0x9F012EBE54633E5,
      0x620D54C4C6D9DD02, 0x6B4D3FA000F8C72A]⟩ =
      [{ sw := 0x0, results := [0x320FBB210839E1E2, 0x2A960C5478415752, 0xF7E198009F1D91C, 0xD1C473DF4CD03BF,
        0x47F38488E69E5B11, 0xC2B675BD1A77F7, 0x65C509C4B65BCED2, 0x757FE2A7E93E1CF7, 0x2FCC1B72BC17EC1A,
        0x377FD833A7AFEE53, 0xAFC793E55D021B6C, 0x261E75FF0712A0E2, 0xC4DB43DD4C33A3F7, 0x756349A1A0AF185,
        0x9B6CA757C32C2320, 0x2DAA70AD05374B39, 0xE172F996FB39F6FD, 0x21C188CC09463D5F, 0xA68791CC72052F2D,
        0x10923530F696D84F] }] := by decide +kernel

/-- V-ED-3 and V-ED-5. -/
theorem test_edMadd :
    reply ⟨0x62, [1, 0, 2, 0, 3, 0, 4, 0, 1, 0, 0, 0, 7, 0, 0, 0, 9, 0, 0, 0, 5, 0, 1, 0, 2, 0, 3, 0, 99, 0, 98, 0,
      1, 0, 1, 0]⟩ =
      [{ sw := 0x0, results := [0x218, 0, 0xFFFFFFFFFFFFF657, 0x7FFFFFFFFFFFFFFF, 0xFFFFFFFFFFFFF837,
        0x7FFFFFFFFFFFFFFF, 0xE20, 0, 4, 0, 0xFFFFFFFFFFFFE0FD, 0x7FFFFFFFFFFFFFFF, 16, 0, 24, 0, 12, 0, 44, 0] }] ∧
    reply ⟨0x62, [5, 0, 5, 0, 0xC8CE991486C8CB60, 0x4AECD0EE93FB4184, 0x18906F49762C9CC7, 0x375BB4B3AC47823E, 3, 0,
      1, 0, 5, 0, 5, 0, 0xD84C6C40B440B317, 0x28D037265738ED7A, 0xC016ABAD95F94DE5, 0x2F83D48471AF86EB,
      0x566EC7CB55274916, 0x1FD4DCC7E71457FC, 0x99AE66CB5A71F79B, 0x7762D20471344B0B, 0x566EC7CB55274912,
      0x1FD4DCC7E71457FC, 0x99AE66CB5A71F795, 0x7762D20471344B0B, 0, 0, 0, 0, 0xC0F78A7430CD9F9C, 0x375171D07E676FAF,
      0x601C6E97851B4771, 0x73BBF8E8A01D7C2C]⟩ =
      [{ sw := 0x0, results := [0xAE3047CB0DF383B1, 0x1FCB6D5EF3D411E1, 0x862C41C2C7798D8E, 0x1AA8ACE84CEF9B77,
        0x8ED26C6F30962769, 0x6E20A8540C5CC98, 0xCB42188D523FC763, 0x7E65EBD5193AA7AD, 0x1A59A5D74736B1DF,
        0x7188EBDD5D4CBBDD, 0xEEB8DEE32146DB93, 0x1A4A3F7FFBA4E7E0, 0xEF5B9299212CAFA6, 0x74017326E1007A05,
        0x783D2583DD63BE25, 0x7288C619BD7F064, 0xCA6F53FCC62286, 0x235F1A669A181274, 0xB21F22775E5E3C83,
        0x573EC1AF623A66C9] }] := by decide +kernel

/-- V-F384-8 and V-F384-20, for the default prime. -/
theorem test_f384Add :
    f384Add P384_DEFAULT
      [0xFFFFFFFE, 0xFFFFFFFF00000000, 0xFFFFFFFFFFFFFFFE, 0xFFFFFFFFFFFFFFFF, 0xFFFFFFFFFFFFFFFF, 0xFFFFFFFFFFFFFFFF]
      [0xFFFFFFFE, 0xFFFFFFFF00000000, 0xFFFFFFFFFFFFFFFE, 0xFFFFFFFFFFFFFFFF, 0xFFFFFFFFFFFFFFFF, 0xFFFFFFFFFFFFFFFF] =
      [0xFFFFFFFD, 0xFFFFFFFF00000000, 0xFFFFFFFFFFFFFFFE, 0xFFFFFFFFFFFFFFFF, 0xFFFFFFFFFFFFFFFF, 0xFFFFFFFFFFFFFFFF] ∧
    f384Add P384_DEFAULT
      [0xFFFFFFFFFFFFFFFF, 0xFFFFFFFFFFFFFFFF, 0xFFFFFFFFFFFFFFFF, 0xFFFFFFFFFFFFFFFF, 0xFFFFFFFFFFFFFFFF,
        0xFFFFFFFFFFFFFFFF]
      [0xFFFFFFFFFFFFFFFF, 0xFFFFFFFFFFFFFFFF, 0xFFFFFFFFFFFFFFFF, 0xFFFFFFFFFFFFFFFF, 0xFFFFFFFFFFFFFFFF,
        0xFFFFFFFFFFFFFFFF] =
      [0xFFFFFFFEFFFFFFFF, 0xFFFFFFFF, 1, 0, 0, 0] := by decide +kernel

/-- V-F384-10 and V-F384-21, for the default prime. -/
theorem test_f384Sub :
    f384Sub P384_DEFAULT
      [3, 0, 0, 0, 0, 0]
      [5, 0, 0, 0, 0, 0] =
      [0xFFFFFFFD, 0xFFFFFFFF00000000, 0xFFFFFFFFFFFFFFFE, 0xFFFFFFFFFFFFFFFF, 0xFFFFFFFFFFFFFFFF, 0xFFFFFFFFFFFFFFFF] ∧
    f384Sub P384_DEFAULT
      [0, 0, 0, 0, 0, 0]
      [0xFFFFFFFFFFFFFFFF, 0xFFFFFFFFFFFFFFFF, 0xFFFFFFFFFFFFFFFF, 0xFFFFFFFFFFFFFFFF, 0xFFFFFFFFFFFFFFFF,
        0xFFFFFFFFFFFFFFFF] =
      [0x100000000, 0xFFFFFFFF00000000, 0xFFFFFFFFFFFFFFFE, 0xFFFFFFFFFFFFFFFF, 0xFFFFFFFFFFFFFFFF,
        0xFFFFFFFFFFFFFFFF] := by decide +kernel

/-- V-F384-13 and V-F384-14, for the default prime. -/
theorem test_f384Neg :
    f384Neg P384_DEFAULT
      [1, 0, 0, 0, 0, 0] =
      [0xFFFFFFFE, 0xFFFFFFFF00000000, 0xFFFFFFFFFFFFFFFE, 0xFFFFFFFFFFFFFFFF, 0xFFFFFFFFFFFFFFFF, 0xFFFFFFFFFFFFFFFF] ∧
    f384Neg P384_DEFAULT
      [0, 0, 0, 0, 0, 0] =
      [0, 0, 0, 0, 0, 0] := by decide +kernel

/-- V-F384-5 and V-F384-19, for the default prime. -/
theorem test_f384Mul :
    f384Mul P384_DEFAULT
      [0x123456789ABCDEF, 0x123456789ABCDEF, 0x123456789ABCDEF, 0x123456789ABCDEF, 0x123456789ABCDEF,
        0x123456789ABCDEF]
      [0xFEDCBA9876543210, 0xFEDCBA9876543210, 0xFEDCBA9876543210, 0xFEDCBA9876543210, 0xFEDCBA9876543210,
        0xFEDCBA9876543210] =
      [0x3CEC98D1147EC36A, 0xDAFFDD0B39D83920, 0x4AC50AF8641FDB8E, 0x13A92A31F0DC26FE, 0xF5B306915F397340,
        0x94A8D60A58C980C4] ∧
    f384Mul P384_DEFAULT
      [0xFFFFFFFFFFFFFFFF, 0xFFFFFFFFFFFFFFFF, 0xFFFFFFFFFFFFFFFF, 0xFFFFFFFFFFFFFFFF, 0xFFFFFFFFFFFFFFFF,
        0xFFFFFFFFFFFFFFFF]
      [0xFFFFFFFFFFFFFFFF, 0xFFFFFFFFFFFFFFFF, 0xFFFFFFFFFFFFFFFF, 0xFFFFFFFFFFFFFFFF, 0xFFFFFFFFFFFFFFFF,
        0xFFFFFFFFFFFFFFFF] =
      [0xFFFFFFE000000005, 0xFFFFFFECFFFFFFD8, 0xFFFFFFFBFFFFFFFE, 0xFFFFFFFCFFFFFFFA, 0xC00000002, 0x1400000014] := by decide +kernel

/-- V-F384-4, for the default prime. -/
theorem test_f384Sqr :
    f384Sqr P384_DEFAULT
      [1, 0, 0, 0, 0, 0] =
      [0xFFFFFFE100000006, 0xFFFFFFEBFFFFFFD8, 0xFFFFFFFBFFFFFFFD, 0xFFFFFFFCFFFFFFFA, 0xC00000002, 0x1400000014] := by decide +kernel

/-- V-F384-15 and V-F384-16, for the default prime. -/
theorem test_f384Canon :
    f384Canon P384_DEFAULT
      [0x100000004, 0xFFFFFFFF00000000, 0xFFFFFFFFFFFFFFFE, 0xFFFFFFFFFFFFFFFF, 0xFFFFFFFFFFFFFFFF,
        0xFFFFFFFFFFFFFFFF] =
      [5, 0, 0, 0, 0, 0] ∧
    f384Canon P384_DEFAULT
      [0xFFFFFFFFFFFFFFFF, 0xFFFFFFFFFFFFFFFF, 0xFFFFFFFFFFFFFFFF, 0xFFFFFFFFFFFFFFFF, 0xFFFFFFFFFFFFFFFF,
        0xFFFFFFFFFFFFFFFF] =
      [0xFFFFFFFF00000000, 0xFFFFFFFF, 1, 0, 0, 0] := by decide +kernel

/-- V-F127-30: a value outside `NR127` passes unchanged. -/
theorem test_f127Csel :
    reply ⟨0x135, [0xFFFFFFFFFFFFFFFF, 0xFFFFFFFFFFFFFFFF, 3, 4]⟩ =
      [{ sw := 0, results := [0xFFFFFFFFFFFFFFFF, 0xFFFFFFFFFFFFFFFF] }] ∧
    reply ⟨0x35, [1, 2, 3, 4]⟩ = [{ sw := 0, results := [3, 4] }] := by decide +kernel

/-- V-F384-18. -/
theorem test_f384Csel :
    reply ⟨0x145, [1, 2, 3, 4, 5, 6, 16, 32, 48, 64, 80, 96]⟩ = [{ sw := 0, results := [1, 2, 3, 4, 5, 6] }] ∧
    reply ⟨0x45, [1, 2, 3, 4, 5, 6, 16, 32, 48, 64, 80, 96]⟩ = [{ sw := 0, results := [16, 32, 48, 64, 80, 96] }] := by
  decide +kernel

/-- V-FP2-20. -/
theorem test_fp2Csel :
    reply ⟨0x155, [1, 0, 2, 0, 3, 0, 4, 0]⟩ = [{ sw := 0, results := [1, 0, 2, 0] }] ∧
    reply ⟨0x055, [1, 0, 2, 0, 3, 0, 4, 0]⟩ = [{ sw := 0, results := [3, 0, 4, 0] }] := by decide +kernel

/-- The constants of 42_f384.md R99. -/
theorem test_nprime384 :
    vec 6 (nprime384 P384_DEFAULT) =
      [0x0000000100000001, 0x0000000000000001, 0xFFFFFFFBFFFFFFFE, 0xFFFFFFFCFFFFFFFA, 0x0000000C00000002,
        0x0000001400000014] := by decide +kernel

/-- The start state of V-ML-1 and the state it leads to, over `LF_TEST`. -/
def mlStart : MlState := ⟨[11, 0], [1, 0], [0, 0], [11, 0], [1, 0]⟩
def mlNext : MlState := ⟨[11, 0], [14400, 0], [0x0E0A3450, 0], [484, 0], [44, 0]⟩

/-- V-ML-1 and V-ML-1b. -/
theorem test_mlStep :
    mlStep LF_TEST true mlStart = mlNext ∧
    mlStep LF_TEST false mlStart =
      ⟨[11, 0], [1, 0], [0xFFFFFFFFFFFFFFFF, 0x7FFFFFFFFFFFFFFF], [484, 0], [44, 0]⟩ := by decide +kernel

/-- V-ML-2. -/
theorem test_mlDbl :
    mlDbl LF_TEST mlNext =
      { mlNext with x2 := [0x7FC49916B1510000, 0x000097C76212E2A3], z2 := [0x49EBA9FDC4500000, 0x000001242EFAE525] } := by
  decide +kernel

/-- V-ML-3. -/
theorem test_mlDadd :
    mlDadd LF_TEST mlNext [11, 0] =
      { mlNext with x3 := [0x42CB0DE26C1A4000, 0x0000000000000017], z3 := [0x9C065E42A5EAC000, 0x0000000000007919] } := by
  decide +kernel

/-! ### Witnesses: states and operands that meet the hypotheses of the statements, named after them -/

/-- A CORE after reset, with inputs waiting. -/
def withInputs (xs : List Input) : State := { cfg := Cfg.reset, inputs := xs, responses := [] }

def selimpl : CommandFrame := ⟨1, []⟩
def addFrame : CommandFrame := ⟨0x30, [1, 0, 2, 0]⟩
def addInstr : Instr := .f127Add [1, 0] [2, 0]

theorem witness_DecodeOfEncodeIsIdentity :
    addInstr.WellFormed ∧ (Instr.lv2Csel true [1, 2] [3, 4]).WellFormed ∧ (Instr.edAdd pt1 entry1).WellFormed ∧
    (Instr.mlDadd ml1 (vec LF.nl 1)).WellFormed := by
  refine ⟨by decide, by decide, by decide, ?_⟩
  simp [Instr.WellFormed, Instr.wellFormed, isMlState, isLimbs, ml1]

theorem witness_EncodeOfDecodeIsIdentity : decode addFrame = .ok addInstr := rfl

/-- With the right number of operand words, and with one too few. -/
theorem witness_WellFormedIffOperandCount :
    decode addFrame = .ok addInstr ∧ decode ⟨0x30, [1, 0, 2]⟩ = .ok (.f127Add [1, 0] [2]) ∧
    (frameWords 0x30).1 = 4 := ⟨rfl, rfl, by decide⟩

/-- The first and the last word, and the lowest and the highest byte of one. -/
theorem witness_ByteImageIsLittleEndian :
    ([1, 2] : List Word)[0]? = some 1 ∧ ([1, 2] : List Word)[1]? = some 2 ∧ 0 < 8 ∧ 7 < 8 ∧
    wordsOfBytes [1, 0, 0, 0, 0, 0, 0, 0] = some [1] := by decide +kernel

theorem witness_StepRunsTheDecodedCommand :
    (withInputs [.command addFrame, .reset]).inputs = .command addFrame :: [.reset] ∧ decode addFrame = .ok addInstr ∧
    decodeTableWord 64 0x30 = some (.f127Add [0, 0] [0, 0]) := ⟨rfl, rfl, by decide +kernel⟩

theorem witness_IdleKeepsEverything : State.reset.inputs = [] := rfl

/-- A reserved bit at either end, an opcode at either side of a gap, a flag that is not taken. -/
theorem witness_IllegalWordIsAnsweredIllegal :
    (withInputs [.command ⟨0x230, []⟩]).inputs = .command ⟨0x230, []⟩ :: [] ∧
    IllegalWord 0x230 ∧ IllegalWord 0x8000000000000030 ∧ IllegalWord 0x00 ∧ IllegalWord 0x14 ∧ IllegalWord 0x73 ∧
    IllegalWord 0x130 := by
  simp only [IllegalWord]; exact ⟨rfl, by decide +kernel⟩

/-- One operand word too few, one too many, and `SYS.SELIMPL` with a surplus word. -/
theorem witness_WrongLengthIsAnsweredBadLen :
    (withInputs [.command ⟨0x30, [1, 0, 2]⟩]).inputs = .command ⟨0x30, [1, 0, 2]⟩ :: [] ∧
    ¬ IllegalWord 0x30 ∧ 3 ≠ (frameWords (0x30 % 2 ^ 8)).1 ∧ 5 ≠ (frameWords (0x30 % 2 ^ 8)).1 ∧
    ¬ IllegalWord 0x01 ∧ 1 ≠ (frameWords (0x01 % 2 ^ 8)).1 := by
  simp only [IllegalWord]; exact ⟨rfl, by decide +kernel⟩

/-- One frame for each of the three outcomes. -/
theorem witness_EveryFrameGetsOneResponse :
    (withInputs [.command addFrame]).inputs = .command addFrame :: [] ∧
    IllegalWord 0x130 ∧
    (¬ IllegalWord 0x30 ∧ 3 ≠ (frameWords (0x30 % 2 ^ 8)).1) ∧
    (¬ IllegalWord addFrame.cw ∧ addFrame.payload.length = (frameWords (addFrame.cw.toNat % 2 ^ 8)).1) := by
  simp only [IllegalWord]; exact ⟨rfl, by decide +kernel⟩

theorem witness_ResetInputRestoresCfg :
    ({ cfg := ⟨true, true⟩, inputs := [.reset], responses := [] } : State).inputs = .reset :: [] := rfl

/-- A response with `CF` = 1 (V-LV-1), and one with `CF` = 0. -/
theorem witness_StatusWordFields :
    (∃ t r, step (withInputs [.command ⟨0x10, [0xFFFFFFFFFFFFFFFF, 0xFFFFFFFFFFFFFFFF, 1, 0]⟩]) = .next t ∧
      t.responses = [] ++ [r] ∧ swCf r.sw = true) ∧
    (∃ t r, step (withInputs [.command addFrame]) = .next t ∧ t.responses = [] ++ [r] ∧ swCf r.sw = false) :=
  ⟨⟨_, _, rfl, rfl, by decide +kernel⟩, ⟨_, _, rfl, rfl, by decide +kernel⟩⟩

/-- The two values of `CFG.IMPL_SEL`. -/
theorem witness_BothPathsGiveTheSameBits :
    (∃ t, step { cfg := ⟨false, true⟩, inputs := [.command addFrame], responses := [] } = .next t) ∧
    (∃ t, step { cfg := ⟨true, true⟩, inputs := [.command addFrame], responses := [] } = .next t) :=
  ⟨⟨_, rfl⟩, ⟨_, rfl⟩⟩

/-- An illegal frame and a frame of the wrong length, each before a good one. -/
theorem witness_ErrorsLeaveNoTrace :
    IllegalWord 0x130 ∧ 3 ≠ (frameWords (0x30 % 2 ^ 8)).1 ∧
    (∃ t, Host.Core.run Sys2Proof.core 2 (State.reset.sent [⟨0x130, []⟩, addFrame] []) = .next t) ∧
    (∃ t, Host.Core.run Sys2Proof.core 2 (State.reset.sent [⟨0x30, [1, 0, 2]⟩, addFrame] []) = .next t) ∧
    (∃ u, Host.Core.run Sys2Proof.core 1 (State.reset.sent [addFrame] []) = .next u) := by
  refine ⟨?_, by decide +kernel, ⟨_, rfl⟩, ⟨_, rfl⟩, ⟨_, rfl⟩⟩
  simp only [IllegalWord]; decide +kernel

/-- The first selection, and the reset input after one. -/
theorem witness_OnlySelimplAndResetChangeCfg :
    (∃ t, step (withInputs [.command selimpl]) = .next t ∧ t.cfg ≠ (withInputs [.command selimpl]).cfg) ∧
    (∃ t, step { cfg := ⟨true, true⟩, inputs := [.reset], responses := [] } = .next t ∧ t.cfg ≠ ⟨true, true⟩) := by
  refine ⟨⟨_, rfl, ?_⟩, ⟨_, rfl, by decide⟩⟩
  intro h; exact absurd (congrArg Cfg.selDone h) (by decide)

/-- The invariant with something pending, and a step from there. -/
theorem witness_EveryStepKeepsInvariant :
    State.Inv (withInputs [.command addFrame]) ∧ ∃ t, step (withInputs [.command addFrame]) = .next t :=
  ⟨⟨rfl, fun _ h => by simp [withInputs] at h⟩, ⟨_, rfl⟩⟩

theorem witness_EveryRunIsSafe : State.Inv (withInputs [.command selimpl, .command addFrame, .reset]) :=
  ⟨rfl, fun _ h => by simp [withInputs] at h⟩

theorem witness_SelimplSelectsOnce :
    State.reset.cfg.selDone = false ∧ ({ State.reset with cfg := ⟨true, true⟩ } : State).cfg.selDone = true ∧
    ([0] : List Word) ≠ [] := by decide

theorem witness_SelectionIsPermanentUntilReset :
    let s : State := { cfg := ⟨true, true⟩, inputs := [.command selimpl, .command addFrame], responses := [] }
    s.cfg.selDone = true ∧ Input.reset ∉ s.inputs ∧ ∃ t, Host.Core.run Sys2Proof.core 2 s = .next t :=
  ⟨rfl, by decide, ⟨_, rfl⟩⟩

/-- One opcode, other operands, other flag, other state. -/
theorem witness_LatencyIsPublic :
    (Instr.lv2Csel true [1, 2] [3, 4]).op = (Instr.lv2Csel false [0, 0] [0, 0]).op ∧
    State.reset.cfg.implSel = (withInputs [.reset]).cfg.implSel := ⟨rfl, rfl⟩

theorem witness_SecretsDoNotReachPublicOutcome :
    ¬ IllegalWord 0x112 ∧ ¬ IllegalWord 0x012 ∧ 0x112 % 2 ^ 8 = 0x012 % 2 ^ 8 ∧
    ([1, 2, 3, 4] : List Word).length = ([5, 6, 7, 8] : List Word).length := by
  simp only [IllegalWord]; decide +kernel

/-- The widths of LV operands, at both ends of their range. -/
theorem witness_LvAddGivesSumAndCarry :
    (vec 2 0).length = 2 ∧ (vec 2 (2 ^ 128 - 1)).length = 2 ∧ (vec 6 0).length = 6 ∧
    (vec 6 (2 ^ 384 - 1)).length = 6 := by decide +kernel

theorem witness_LvSubGivesDifferenceAndBorrow :
    ([0, 0] : List Limb).length = 2 ∧ ([1, 0] : List Limb).length = 2 ∧ (vec 6 1).length = 6 := by decide

theorem witness_LvSelectAndSwap : ([1, 2] : List Limb).length = 2 ∧ (vec 6 1).length = 6 := by decide

theorem witness_LvLaws : (2 = 2 ∨ 2 = 6) ∧ (6 = 2 ∨ 6 = 6) ∧ (vec 2 5).length = 2 ∧ (vec 6 5).length = 6 := by decide

/-- Zero, `p`, `2p` and the value that needs both folds. -/
theorem witness_TwoFoldsClosedForm : 0 < 2 ^ 128 ∧ P127 < 2 ^ 128 ∧ 2 * P127 < 2 ^ 128 ∧ 2 ^ 128 - 1 < 2 ^ 128 := by
  decide +kernel

/-- Sums on either side of 2^128. -/
theorem witness_F127AddResult :
    (vec 2 (2 ^ 127 - 1)).length = 2 ∧ val (vec 2 (2 ^ 127 - 1)) + val (vec 2 (2 ^ 127 - 1)) < 2 ^ 128 ∧
    2 ^ 128 ≤ val (vec 2 (2 ^ 127)) + val (vec 2 (2 ^ 127)) := by decide +kernel

/-- Values below, at and above 2^127. -/
theorem witness_F127NegResult :
    val (vec 2 (2 ^ 127 - 1)) < 2 ^ 127 ∧ val (vec 2 (2 ^ 127)) = 2 ^ 127 ∧ 2 ^ 127 < val (vec 2 (2 ^ 127 + 1)) ∧
    (vec 2 (2 ^ 127)).length = 2 := by decide +kernel

theorem witness_F127SubResult :
    (vec 2 0).length = 2 ∧ val (vec 2 0) < 2 ^ 127 ∧ (vec 2 P127).length = 2 ∧ val (vec 2 P127) < 2 ^ 127 ∧
    val (vec 2 0) = 0 ∧ val (vec 2 P127) = P127 := by decide +kernel

theorem witness_F127MulAndSqrResult :
    (vec 2 P127).length = 2 ∧ val (vec 2 P127) < 2 ^ 127 ∧ (vec 2 0).length = 2 ∧ val (vec 2 0) < 2 ^ 127 := by
  decide +kernel

/-- Below `p`, at `p`, at the end of `LAZY127`, and beyond it. -/
theorem witness_F127SelectAndCanon :
    val (vec 2 (P127 - 1)) < P127 ∧ ¬ val (vec 2 P127) < P127 ∧ val (vec 2 (2 * P127 - 1)) < 2 * P127 ∧
    ¬ val (vec 2 (2 * P127)) < 2 * P127 ∧ (vec 2 (2 * P127)).length = 2 := by decide +kernel

theorem witness_F127RangeClosure : NR127 (vec 2 0) ∧ NR127 (vec 2 P127) := by decide +kernel

theorem witness_F127FieldLaws : NR127 (vec 2 0) ∧ NR127 (vec 2 1) ∧ NR127 (vec 2 P127) := by decide +kernel

/-- Whatever the modulus of the build is. -/
theorem modulus_pos : 1 < P384 := by have h := P384_facts.2.1; exact lt_trans (by decide +kernel) h

theorem witness_MontgomeryConstant :
    ∃ n : Nat, n < 2 ^ 384 ∧ (P384_DEFAULT * n + 1) % 2 ^ 384 = 0 := ⟨nprime384 P384_DEFAULT, by decide +kernel⟩

theorem witness_MontgomeryReduction : 0 < 2 ^ 768 ∧ 2 ^ 768 - 1 < 2 ^ 768 := by decide +kernel

/-- For `T` = 0 the multiplier is 0, whatever the modulus. -/
theorem witness_ReductionMultiplierIsUnique :
    (0 : Nat) < 2 ^ 768 ∧ (0 : Nat) < 2 ^ 384 ∧ (0 + 0 * P384) % 2 ^ 384 = 0 := by
  refine ⟨by decide +kernel, by decide +kernel, by rw [Nat.zero_mul]; rfl⟩

/-- The largest `T` of the first clause, the pair of the second and the largest `T` of the third. -/
theorem witness_ReductionBound :
    P384 * 2 ^ 384 - 1 < P384 * 2 ^ 384 ∧ (P384 - 1 < P384 ∧ 2 ^ 384 - 1 < 2 ^ 384) ∧ 2 ^ 768 - 1 < 2 ^ 768 := by
  have h := modulus_pos
  have : 0 < P384 * 2 ^ 384 := Nat.mul_pos (Nat.lt_trans Nat.one_pos h) (Nat.two_pow_pos _)
  exact ⟨Nat.sub_lt this Nat.one_pos, ⟨Nat.sub_lt (Nat.lt_trans Nat.one_pos h) Nat.one_pos, by decide +kernel⟩, by decide +kernel⟩

/-- Zero and one are canonical for every modulus. -/
theorem canonical_zero : CAN384 P384 (vec 6 0) := ⟨rfl, by have := modulus_pos; rw [show val (vec 6 0) = 0 by rfl]; omega⟩
theorem canonical_one : CAN384 P384 (vec 6 1) := ⟨rfl, by have := modulus_pos; rw [show val (vec 6 1) = 1 by rfl]; omega⟩

theorem witness_F384MulAndSqrResult :
    (vec 6 (2 ^ 384 - 1)).length = 6 ∧ (vec 6 1).length = 6 ∧ val (vec 6 1) * val (vec 6 1) < P384 * 2 ^ 384 := by
  refine ⟨rfl, rfl, ?_⟩
  have h := modulus_pos
  have : 1 * 2 ^ 384 ≤ P384 * 2 ^ 384 := Nat.mul_le_mul_right _ (by omega)
  exact lt_of_lt_of_le (show val (vec 6 1) * val (vec 6 1) < 1 * 2 ^ 384 by decide +kernel) this

/-- Canonical operands with and without a borrow, a zero and a non-zero operand of the negation. -/
theorem witness_F384AddSubNegResult :
    (vec 6 0).length = 6 ∧ val (vec 6 0) < P384 ∧ val (vec 6 1) < P384 ∧ val (vec 6 0) = 0 ∧ 0 < val (vec 6 1) ∧
    val (vec 6 0) + val (vec 6 1) < 2 ^ 384 + P384 ∧ val (vec 6 1) ≤ val (vec 6 0) + P384 := by
  have h := modulus_pos
  have e0 : val (vec 6 0) = 0 := rfl
  have e1 : val (vec 6 1) = 1 := rfl
  rw [e0, e1]; exact ⟨rfl, by omega⟩

theorem witness_F384SelectAndCanon :
    (vec 6 (2 ^ 384 - 1)).length = 6 ∧ (vec 6 1).length = 6 ∧ val (vec 6 1) < P384 := ⟨rfl, rfl, canonical_one.2⟩

theorem witness_F384RangeClosure : CAN384 P384 (vec 6 0) ∧ CAN384 P384 (vec 6 1) := ⟨canonical_zero, canonical_one⟩

theorem witness_Fp2ComponentwiseCommands : isFp2 fp1 = true := rfl

/-- General operands, and the two ways a component of a product is the all-zero pattern. -/
theorem witness_Fp2MulResult :
    isFp2 fp1 = true ∧ NRFp2 fp1 ∧ val (fp2Mul ⟨vec 2 1, vec 2 0⟩ ⟨vec 2 1, vec 2 0⟩).a1 = 0 ∧
    val (fp2Mul ⟨vec 2 0, vec 2 P127⟩ ⟨vec 2 1, vec 2 P127⟩).a0 = 0 := by decide +kernel

theorem witness_Fp2SqrResult : isFp2 fp1 = true ∧ NRFp2 fp1 ∧ NRFp2 ⟨vec 2 P127, vec 2 0⟩ := by decide +kernel

/-- With the two forms differing (R106's example). -/
theorem witness_KaratsubaFormAgreesAfterCanon :
    NRFp2 ⟨vec 2 1, vec 2 0⟩ ∧ vec 2 P127 ≠ (fp2Mul ⟨vec 2 1, vec 2 0⟩ ⟨vec 2 1, vec 2 0⟩).a1 := by decide +kernel

theorem witness_Fp2LawsAndRangeClosure : NRFp2 fp1 ∧ NRFp2 ⟨vec 2 P127, vec 2 P127⟩ ∧ NRFp2 ⟨vec 2 0, vec 2 0⟩ := by
  decide +kernel

/-- The point, the curve constant and the table entry of V-ED-4. -/
def dTest : Fp2 := ⟨[5, 0], [7, 0]⟩
def ptTest : EdPoint :=
  { X := ⟨[5, 0], [5, 0]⟩,
    Y := ⟨[0xC8CE991486C8CB60, 0x4AECD0EE93FB4184], [0x18906F49762C9CC7, 0x375BB4B3AC47823E]⟩,
    Z := ⟨[3, 0], [1, 0]⟩, Ta := ⟨[5, 0], [5, 0]⟩,
    Tb := ⟨[0xD84C6C40B440B317, 0x28D037265738ED7A], [0xC016ABAD95F94DE5, 0x2F83D48471AF86EB]⟩ }
def entryTest : EdEntry :=
  { sumYX := ⟨[0xC8CE991486C8CB65, 0x4AECD0EE93FB4184], [0x18906F49762C9CCC, 0x375BB4B3AC47823E]⟩,
    diffYX := ⟨[0xC8CE991486C8CB5B, 0x4AECD0EE93FB4184], [0x18906F49762C9CC2, 0x375BB4B3AC47823E]⟩,
    doubledZ := ⟨[6, 0], [2, 0]⟩,
    doubledTProduct := ⟨[0x0F6711939E157EA9, 0x09F012EBE54633E5], [0x620D54C4C6D9DD02, 0x6B4D3FA000F8C72A]⟩ }

/-- V-ED-4: the entry of a point, by R114. -/
theorem test_entryOf : entryOf dTest ptTest = entryTest := by decide +kernel

theorem witness_EdDoubleSteps : isEdPoint ptTest = true ∧ NREdPoint ptTest ∧ isFp2 fp1 = true := by decide +kernel

theorem witness_EdAddSteps :
    isEdPoint ptTest = true ∧ isEdEntry entryTest = true ∧ NREdPoint ptTest ∧ NREdEntry entryTest ∧
    isFp2 fp1 = true := by decide +kernel

theorem witness_EdResultsMeetTheInvariant : NREdPoint ptTest ∧ NREdEntry entryTest := by decide +kernel

theorem witness_EdDoubleStaysOnCurve :
    NRFp2 dTest ∧ NREdPoint ptTest ∧ SegreInv ptTest ∧ OnCurve dTest ptTest := by
  unfold SegreInv OnCurve; decide +kernel

theorem witness_EdAddOfSelfIsDouble : NRFp2 dTest ∧ NREdPoint ptTest ∧ OnCurve dTest ptTest := by
  unfold OnCurve; decide +kernel

/-- The neutral point (0, 1) with `Z` = 1, for the clause on `ED.MADD`. -/
def ptNeutral : EdPoint := ⟨⟨vec 2 0, vec 2 0⟩, ⟨vec 2 1, vec 2 0⟩, ⟨vec 2 1, vec 2 0⟩, ⟨vec 2 0, vec 2 0⟩, ⟨vec 2 1, vec 2 0⟩⟩

theorem witness_EdAddIsTheCurveSum :
    NRFp2 dTest ∧ NREdPoint ptTest ∧ NREdPoint ptNeutral ∧ SegreInv ptTest ∧ SegreInv ptNeutral ∧
    Fp2Eq ptNeutral.Z ⟨vec 2 1, vec 2 0⟩ := by
  unfold SegreInv; decide +kernel

/-- The clause on `ED.MADD` at the other pattern of `Z` = 1. -/
theorem witness_EdAddIsTheCurveSum_otherOne :
    let Q : EdPoint := { ptNeutral with Z := ⟨vec 2 1, vec 2 P127⟩ }
    NREdPoint Q ∧ SegreInv Q ∧ Q.Z ≠ ⟨vec 2 1, vec 2 0⟩ ∧ Fp2Eq Q.Z ⟨vec 2 1, vec 2 0⟩ := by
  unfold SegreInv; decide +kernel

theorem mlState_ml1 : isMlState ml1 = true := by simp [isMlState, isLimbs, ml1]

theorem witness_LadderSteps :
    isMlState ml1 = true ∧ NRMlState LF ml1 ∧ (vec LF.nl 1).length = LF.nl ∧ LF.nrl (vec LF.nl 1) := by
  have h0 : LF.nrl (vec LF.nl 0) := Config.LF.contract.nrl_zero
  have h1 : LF.nrl (vec LF.nl 1) := Config.LF.contract.nrl_one
  exact ⟨mlState_ml1, ⟨h1, h1, h0, h1, h1⟩, vec_length _ _, h1⟩

theorem witness_LadderFormulas :
    Config.smallField.Contract ∧ NRMlState Config.smallField ⟨[1], [1], [0], [2], [1]⟩ ∧
    Config.smallField.nrl [1] := ⟨Config.smallField_contract, ⟨rfl, rfl, rfl, rfl, rfl⟩, rfl⟩

end Sys2Proof.Tests
end

section
/-! PROOFS. The family 00_scope.md: what a legal frame makes public. The answer to a legal frame is a function of its
opcode, its number of operand words and `CFG` alone (`publicOutcome`), so no operand word and no `FLAG` reaches it. -/

namespace Sys2Proof.Machine

/-! ### The legal command words are the ones the decoder accepts (R146, R49 step 1) -/

theorem mem_opcodeColumn_iff (n : Nat) : n ∈ opcodeColumn ↔ ∃ op : Op, op.opcode.toNat = n := by
  have hcol : opcodeColumn = Op.all.map fun op => op.opcode.toNat := by decide
  have hall (op : Op) : op ∈ Op.all := by cases op <;> decide
  simp [hcol, hall]

theorem opcode_mem_flagColumn_iff (op : Op) : op.opcode.toNat ∈ flagColumn ↔ op.takesFlag = true := by
  cases op <;> decide

theorem ofOpcode_opcField_eq_some_iff (w : Word) (op : Op) :
    Op.ofOpcode (opcField w) = some op ↔ op.opcode.toNat = w.toNat % 2 ^ 8 := by
  rw [← opcField_toNat]
  refine ⟨fun h => by rw [Op.opcode_of_ofOpcode h], fun h => ?_⟩
  rw [← BitVec.eq_of_toNat_eq h, Op.ofOpcode_opcode]

theorem reservedField_eq_zero_iff (w : Word) : reservedField w = 0 ↔ w.toNat / 2 ^ 9 = 0 := by
  rw [← reservedField_toNat, BitVec.toNat_eq]; rfl

/-- The check of R146, read off the fields of the word as `decode_ok_iff` reads them. -/
theorem not_illegalWord_iff (w : Word) :
    ¬ IllegalWord w ↔ reservedField w = 0 ∧ ∃ op, Op.ofOpcode (opcField w) = some op ∧
      (flagField w && !op.takesFlag) = false := by
  simp only [IllegalWord, not_or, not_not, reservedField_eq_zero_iff, mem_opcodeColumn_iff,
    ofOpcode_opcField_eq_some_iff, flagField_eq]
  refine and_congr_right fun _ => ⟨fun ⟨⟨op, hop⟩, hflag⟩ => ⟨op, hop, ?_⟩, fun ⟨op, hop, hflag⟩ => ⟨⟨op, hop⟩, ?_⟩⟩
  · rw [← hop, opcode_mem_flagColumn_iff] at hflag
    simpa using hflag
  · rw [← hop, opcode_mem_flagColumn_iff]
    simpa using hflag

theorem exists_op_decode_of_legal {f : CommandFrame} (h : ¬ IllegalWord f.cw) :
    ∃ op : Op, op.opcode.toNat = f.cw.toNat % 2 ^ 8 ∧ decode f = .ok (op.command (flagField f.cw) f.payload) := by
  obtain ⟨hres, op, hop, hflag⟩ := (not_illegalWord_iff f.cw).mp h
  exact ⟨op, (ofOpcode_opcField_eq_some_iff _ _).mp hop, (decode_ok_iff f _).mpr ⟨hres, op, hop, hflag, rfl⟩⟩

theorem opcode_toNat_injective {op op' : Op} (h : op.opcode.toNat = op'.opcode.toNat) : op = op' := by
  have hb := Op.ofOpcode_opcode op
  rw [BitVec.eq_of_toNat_eq h, Op.ofOpcode_opcode] at hb
  exact (Option.some.inj hb).symm

/-! ### A command is well-formed exactly when the frame has `INW(op)` operand words (R44, R46, R47) -/

theorem isFp2_ofWords_iff (ws : List Word) : isFp2 (fp2OfWords ws) = true ↔ ws.length = 4 := by
  simp [isFp2, fp2OfWords]; omega

theorem isEdPoint_ofWords_iff (ws : List Word) : isEdPoint (edPointOfWords ws) = true ↔ ws.length = 20 := by
  simp [isEdPoint, edPointOfWords, isFp2_ofWords_iff]; omega

theorem isEdEntry_ofWords_iff (ws : List Word) : isEdEntry (edEntryOfWords ws) = true ↔ ws.length = 16 := by
  simp [isEdEntry, edEntryOfWords, isFp2_ofWords_iff]; omega

theorem LF_nl_pos : 1 ≤ LF.nl := Config.LF.contract.nl_pos

theorem isMlState_ofWords_iff (ws : List Word) : isMlState (mlStateOfWords ws) = true ↔ ws.length = 5 * LF.nl := by
  have := LF_nl_pos
  simp [isMlState, mlStateOfWords]; omega

theorem wellFormed_command_iff (op : Op) (flag : Bool) (ws : List Word) :
    (op.command flag ws).wellFormed = true ↔ ws.length = op.inw := by
  have := LF_nl_pos
  cases op <;>
    simp [Op.command, Instr.wellFormed, Op.inw, isFp2_ofWords_iff, isEdPoint_ofWords_iff, isEdEntry_ofWords_iff,
      isMlState_ofWords_iff] <;> omega

/-! ### A well-formed command answers `OUTW(op)` result words (R47, R51) -/

@[simp] theorem isFp2_fp2Add (a b : Fp2) : isFp2 (fp2Add a b) = true := by simp [isFp2, fp2Add]
@[simp] theorem isFp2_fp2Sub (a b : Fp2) : isFp2 (fp2Sub a b) = true := by simp [isFp2, fp2Sub]
@[simp] theorem isFp2_fp2Neg (a : Fp2) : isFp2 (fp2Neg a) = true := by simp [isFp2, fp2Neg]
@[simp] theorem isFp2_fp2Mul (a b : Fp2) : isFp2 (fp2Mul a b) = true := by simp [isFp2, fp2Mul]
@[simp] theorem isFp2_fp2Sqr (a : Fp2) : isFp2 (fp2Sqr a) = true := by simp [isFp2, fp2Sqr]

theorem isFp2_fp2Csel (flag : Bool) {a b : Fp2} (ha : isFp2 a = true) (hb : isFp2 b = true) :
    isFp2 (fp2Csel flag a b) = true := by
  rw [isFp2_iff] at *
  simp [fp2Csel, selN_length, ha, hb]

theorem isFp2_fp2Canon {a : Fp2} (h : isFp2 a = true) : isFp2 (fp2Canon a) = true := by
  rw [isFp2_iff] at *
  simp [fp2Canon, f127Canon_length, h]

theorem isEdPoint_edDbl (P : EdPoint) : isEdPoint (edDbl P) = true := by simp [isEdPoint, edDbl]

theorem isEdPoint_edAddWith (P : EdPoint) (Q : EdEntry) (d : Fp2) : isEdPoint (edAddWith P Q d) = true := by
  simp [isEdPoint, edAddWith]

/-- The ladder field's members keep the width `NL` (R124). -/
theorem LF_add_length {a b : List Limb} (ha : a.length = LF.nl) (hb : b.length = LF.nl) :
    (LF.add a b).length = LF.nl := Config.LF.contract.add_length a b ha hb
theorem LF_sub_length {a b : List Limb} (ha : a.length = LF.nl) (hb : b.length = LF.nl) :
    (LF.sub a b).length = LF.nl := Config.LF.contract.sub_length a b ha hb
theorem LF_mul_length {a b : List Limb} (ha : a.length = LF.nl) (hb : b.length = LF.nl) :
    (LF.mul a b).length = LF.nl := Config.LF.contract.mul_length a b ha hb
theorem LF_sqr_length {a : List Limb} (ha : a.length = LF.nl) : (LF.sqr a).length = LF.nl :=
  Config.LF.contract.sqr_length a ha
theorem LF_mulA24_length {a : List Limb} (ha : a.length = LF.nl) : (LF.mulA24 a).length = LF.nl :=
  Config.LF.contract.mulA24_length a ha

theorem isMlState_iff (S : MlState) :
    isMlState S = true ↔ S.x1.length = LF.nl ∧ S.x2.length = LF.nl ∧ S.z2.length = LF.nl ∧ S.x3.length = LF.nl ∧
      S.z3.length = LF.nl := by
  simp [isMlState, and_assoc]

theorem mlDouble_length {A B : List Limb} (hA : A.length = LF.nl) (hB : B.length = LF.nl) :
    (mlDouble LF A B).1.length = LF.nl ∧ (mlDouble LF A B).2.length = LF.nl := by
  have hAA := LF_sqr_length hA
  have hBB := LF_sqr_length hB
  have hE := LF_sub_length hAA hBB
  exact ⟨LF_mul_length hAA hBB, LF_mul_length hE (LF_add_length (LF_mulA24_length hE) hBB)⟩

/-- Every value `XCROSS` returns keeps the width `NL`. -/
theorem xcross_length {xa za xb zb : List Limb} (hxa : xa.length = LF.nl) (hza : za.length = LF.nl)
    (hxb : xb.length = LF.nl) (hzb : zb.length = LF.nl) :
    (xcross LF xa za xb zb).A.length = LF.nl ∧ (xcross LF xa za xb zb).B.length = LF.nl ∧
    (xcross LF xa za xb zb).C.length = LF.nl ∧ (xcross LF xa za xb zb).D.length = LF.nl ∧
    (xcross LF xa za xb zb).S.length = LF.nl ∧ (xcross LF xa za xb zb).W.length = LF.nl := by
  have hA := LF_add_length hxa hza
  have hB := LF_sub_length hxa hza
  have hC := LF_add_length hxb hzb
  have hD := LF_sub_length hxb hzb
  have hDA := LF_mul_length hD hA
  have hCB := LF_mul_length hC hB
  exact ⟨hA, hB, hC, hD, LF_add_length hDA hCB, LF_sub_length hDA hCB⟩

theorem isMlState_mlStep (flag : Bool) {S : MlState} (h : isMlState S = true) :
    isMlState (mlStep LF flag S) = true := by
  rw [isMlState_iff] at *
  obtain ⟨h1, hx2, hz2, hx3, hz3⟩ := h
  obtain ⟨hA, hB, hC, hD, hS, hW⟩ := xcross_length hx2 hz2 hx3 hz3
  have hd := mlDouble_length ((selN_length flag (hC.trans hA.symm)).trans hA)
    ((selN_length flag (hD.trans hB.symm)).trans hB)
  exact ⟨h1, hd.1, hd.2, LF_sqr_length hS, LF_mul_length h1 (LF_sqr_length hW)⟩

theorem isMlState_mlDbl {S : MlState} (h : isMlState S = true) : isMlState (mlDbl LF S) = true := by
  rw [isMlState_iff] at *
  obtain ⟨h1, hx2, hz2, hx3, hz3⟩ := h
  have hd := mlDouble_length (LF_add_length hx2 hz2) (LF_sub_length hx2 hz2)
  exact ⟨h1, hd.1, hd.2, hx3, hz3⟩

theorem isMlState_mlDadd {S : MlState} {fx : List Limb} (h : isMlState S = true) (hfx : fx.length = LF.nl) :
    isMlState (mlDadd LF S fx) = true := by
  rw [isMlState_iff] at *
  obtain ⟨h1, hx2, hz2, hx3, hz3⟩ := h
  obtain ⟨-, -, -, -, hS, hW⟩ := xcross_length hx2 hz2 hx3 hz3
  exact ⟨h1, hx2, hz2, LF_sqr_length hS, LF_mul_length hfx (LF_sqr_length hW)⟩

open Laws in
theorem resultsOf_length {i : Instr} (h : i.wellFormed = true) : (resultsOf i).length = i.op.outw := by
  cases i <;> simp only [Instr.wellFormed, Bool.and_eq_true, isLimbs_iff] at h
  case fp2Csel f a b => exact fp2Words_length (isFp2_fp2Csel f h.1 h.2)
  case fp2Canon a => exact fp2Words_length (isFp2_fp2Canon h)
  case edDbl P => exact edPointWords_length (isEdPoint_edDbl P)
  case edAdd P Q => exact edPointWords_length (isEdPoint_edAddWith P Q _)
  case edMadd P Q => exact edPointWords_length (isEdPoint_edAddWith P Q _)
  case mlStep f S => exact mlStateWords_length (isMlState_mlStep f h)
  case mlDbl S => exact mlStateWords_length (isMlState_mlDbl h)
  case mlDadd S fx => exact mlStateWords_length (isMlState_mlDadd h.1 h.2)
  all_goals simp [resultsOf, Instr.op, Op.outw, lvCswap, selN_length, f127Canon_length, fp2Words_length, h]

/-! ### What a legal frame makes public -/

@[simp] theorem swStatus_statusWord (st : Status) (cf : Bool) (cfg : Cfg) :
    swStatus (statusWord st cf cfg) = st.code := by
  have := st.code_le
  rw [swStatus, statusWord_toNat]; omega

/-- `CFG` after a command that answers `OK`: only the first `SYS.SELIMPL` changes it (R138, R141). -/
def cfgAfter (op : Op) (c : Cfg) : Cfg :=
  if op = .sysSelimpl ∧ c.selDone = false then ⟨Config.HAS_MAC, true⟩ else c

theorem afterCommand_cfg (i : Instr) (s : State) : (afterCommand i s).cfg = cfgAfter i.op s.cfg := by
  by_cases hop : i.op = .sysSelimpl
  · cases i <;> simp [Instr.op] at hop
    cases hs : s.cfg.selDone <;> simp [afterCommand, State.selectImpl_cfg, cfgAfter, Instr.op, hs]
  · simp [afterCommand_eq_self hop, cfgAfter, hop]

/-- What an observer sees of the answer to a legal frame. -/
structure PublicOutcome where
  cfg : Cfg
  status : Nat
  resultWords : Nat

/-- The public outcome of a frame of opcode `op` with `n` operand words in configuration `c`: it has no other argument,
neither the operand words nor `FLAG`. -/
def publicOutcome (op : Op) (n : Nat) (c : Cfg) : PublicOutcome :=
  if n = op.inw then ⟨cfgAfter op c, Status.ok.code, op.outw⟩ else ⟨c, Status.badLen.code, 0⟩

/-- Running a command read from a frame gives the public outcome of its opcode and its number of operand words. -/
theorem exec_command_publicOutcome (op : Op) (flag : Bool) (ws : List Word) (s : State) :
    ∃ t r, exec (op.command flag ws) s = .next t ∧ t.inputs = s.inputs ∧ t.responses = s.responses ++ [r] ∧
      publicOutcome op ws.length s.cfg = ⟨t.cfg, swStatus r.sw, r.results.length⟩ := by
  have hwf := wellFormed_command_iff op flag ws
  cases hw : (op.command flag ws).wellFormed with
  | true =>
    refine ⟨_, _, exec_of_wellFormed hw s, afterCommand_inputs _ s,
      (State.respond_responses _ _ _ _).trans (by rw [afterCommand_responses]), ?_⟩
    simp [publicOutcome, hwf.mp hw, afterCommand_cfg, resultsOf_length hw, op_command]
  | false =>
    have hlen : ws.length ≠ op.inw := fun h => by simp [hwf.mpr h] at hw
    refine ⟨_, _, exec_of_not_wellFormed hw s, State.reject_inputs s _, State.reject_responses s _, ?_⟩
    simp [publicOutcome, hlen]

/-- A step on a legal frame gives the public outcome of the frame's opcode and its number of operand words. -/
theorem step_legal_publicOutcome {f : CommandFrame} (h : ¬ IllegalWord f.cw) :
    ∃ op : Op, op.opcode.toNat = f.cw.toNat % 2 ^ 8 ∧ ∀ (s : State) (rest : List Input), ∃ t r,
      step (s.sent [f] rest) = .next t ∧ t.inputs = rest ∧ t.responses = s.responses ++ [r] ∧
      publicOutcome op f.payload.length s.cfg = ⟨t.cfg, swStatus r.sw, r.results.length⟩ := by
  obtain ⟨op, hop, hd⟩ := exists_op_decode_of_legal h
  refine ⟨op, hop, fun s rest => ?_⟩
  obtain ⟨t, r, hexec, hin, hresp, hpub⟩ :=
    exec_command_publicOutcome op (flagField f.cw) f.payload ((s.sent [f] rest).withInputs rest)
  exact ⟨t, r, (step_of_command rfl hd).trans hexec, hin, hresp, hpub⟩

/-- Settles O25: the public outcome is a function of the opcode, the number of operand words and `CFG`, which the two
frames share. -/
theorem secretsDoNotReachPublicOutcome : Obligations.SecretsDoNotReachPublicOutcome := by
  unfold Obligations.SecretsDoNotReachPublicOutcome
  intro s f g rest hf hg hopc hlen
  obtain ⟨op, hop, hstepf⟩ := step_legal_publicOutcome hf
  obtain ⟨op', hop', hstepg⟩ := step_legal_publicOutcome hg
  obtain rfl : op = op' := opcode_toNat_injective (by rw [hop, hop', hopc])
  obtain ⟨t, r, ht, htin, htresp, htpub⟩ := hstepf s rest
  obtain ⟨u, q, hu, huin, huresp, hupub⟩ := hstepg s rest
  have hsame : PublicOutcome.mk t.cfg (swStatus r.sw) r.results.length = ⟨u.cfg, swStatus q.sw, q.results.length⟩ := by
    rw [← htpub, ← hupub, hlen]
  injection hsame with hcfg hstatus hwords
  exact ⟨t, u, r, q, ht, hu, hcfg, htin.trans huin.symm, htresp, huresp, hstatus, hwords⟩

end Sys2Proof.Machine
end

section
/-! PROOFS. The family 10_state.md: the two bits of `CFG`. Which inputs change them, and the invariant that `CFG` and
every response returned are legal, kept by each update a step is made of and so by every step. -/

namespace Sys2Proof.Machine

/-! ### The fields of a status word (R45) -/

theorem getLsbD_eq_iff (w : Word) (k : Nat) (b : Bool) : w.getLsbD k = b ↔ w.toNat / 2 ^ k % 2 = b.toNat := by
  rw [BitVec.getLsbD, Nat.testBit_eq_decide_div_mod_eq]
  cases b <;> simp

@[simp] theorem swCf_statusWord (st : Status) (cf : Bool) (cfg : Cfg) : swCf (statusWord st cf cfg) = cf := by
  have := st.code_le; have := cf.toNat_le
  rw [swCf, getLsbD_eq_iff, statusWord_toNat]; omega

@[simp] theorem swImpl_statusWord (st : Status) (cf : Bool) (cfg : Cfg) :
    swImpl (statusWord st cf cfg) = cfg.implSel := by
  have := st.code_le; have := cf.toNat_le; have := cfg.implSel.toNat_le
  rw [swImpl, getLsbD_eq_iff, statusWord_toNat]; omega

@[simp] theorem swSelDone_statusWord (st : Status) (cf : Bool) (cfg : Cfg) :
    swSelDone (statusWord st cf cfg) = cfg.selDone := by
  have := st.code_le; have := cf.toNat_le; have := cfg.implSel.toNat_le; have := cfg.selDone.toNat_le
  rw [swSelDone, getLsbD_eq_iff, statusWord_toNat]; omega

theorem statusWord_lt (st : Status) (cf : Bool) (cfg : Cfg) : (statusWord st cf cfg).toNat < 2 ^ 11 := by
  have := st.code_le; have := cf.toNat_le; have := cfg.implSel.toNat_le; have := cfg.selDone.toNat_le
  rw [statusWord_toNat]; omega

/-! ### Which response frames are legal (R45, R51, R145) -/

/-- A response of `respond` is legal exactly when it shows a legal `CFG` and carries a flag or results only with `OK`. -/
theorem responseFrame_legal_iff (st : Status) (cf : Bool) (c : Cfg) (out : List Word) :
    ResponseFrame.legal ⟨statusWord st cf c, out⟩ = true ↔ (st = .ok ∨ out = [] ∧ cf = false) ∧ c.legal = true := by
  have hlt := statusWord_lt st cf c
  have hok : st.code = 0 ↔ st = .ok := by cases st <;> decide
  simp only [ResponseFrame.legal, hlt, swStatus_statusWord, st.code_le, swCf_statusWord, swImpl_statusWord,
    swSelDone_statusWord]
  simp [hok]

/-! ### Each update keeps the invariant -/

theorem Cfg.reset_legal : Cfg.reset.legal = true := rfl

/-- The selection leaves the path `HAS_MAC` says; every other command leaves `CFG` as it is (R138, R141). -/
theorem cfgAfter_legal {c : Cfg} (h : c.legal = true) (op : Op) : (cfgAfter op c).legal = true := by
  unfold cfgAfter
  split
  · simp [Cfg.legal]
  · exact h

theorem State.Inv.withInputs {s : State} (h : s.Inv) (rest : List Input) : (s.withInputs rest).Inv := h

theorem State.Inv.applyReset {s : State} (h : s.Inv) : s.applyReset.Inv := ⟨Cfg.reset_legal, h.2⟩

theorem State.Inv.afterCommand {s : State} (h : s.Inv) (i : Instr) : (afterCommand i s).Inv := by
  obtain ⟨hcfg, hresp⟩ := h
  exact ⟨by rw [afterCommand_cfg]; exact cfgAfter_legal hcfg i.op, by rwa [afterCommand_responses]⟩

/-- A legal frame may join the responses. -/
theorem State.Inv.append_response {s t : State} {r : ResponseFrame} (h : s.Inv) (hcfg : t.cfg = s.cfg)
    (hresp : t.responses = s.responses ++ [r]) (hr : r.legal = true) : t.Inv := by
  refine ⟨hcfg ▸ h.1, fun q hq => ?_⟩
  rw [hresp, List.mem_append, List.mem_singleton] at hq
  obtain hq | rfl := hq
  · exact h.2 q hq
  · exact hr

theorem State.Inv.respond_ok {s : State} (h : s.Inv) (cf : Bool) (out : List Word) : (s.respond .ok cf out).Inv :=
  h.append_response (s.respond_cfg ..) (s.respond_responses ..) ((responseFrame_legal_iff ..).mpr ⟨.inl rfl, h.1⟩)

theorem State.Inv.reject {s : State} (h : s.Inv) (st : Status) : (s.reject st).Inv :=
  h.append_response (s.reject_cfg st) (s.reject_responses st) ((responseFrame_legal_iff ..).mpr ⟨.inr ⟨rfl, rfl⟩, h.1⟩)

/-- Whatever a step does from a state of the invariant, the next state is one of it. -/
theorem State.Inv.exists_step {s : State} (h : s.Inv) : ∃ t, step s = .next t ∧ t.Inv := by
  obtain ⟨-, ht⟩ | ⟨rest, -, ht⟩ | ⟨f, rest, e, -, -, ht⟩ | ⟨f, rest, i, -, -, -, ht⟩ | ⟨f, rest, i, -, -, -, ht⟩ :=
    step_cases s
  · exact ⟨_, ht, h⟩
  · exact ⟨_, ht, (h.withInputs rest).applyReset⟩
  · exact ⟨_, ht, (h.withInputs rest).reject .illegal⟩
  · exact ⟨_, ht, (h.withInputs rest).reject .badLen⟩
  · exact ⟨_, ht, ((h.withInputs rest).afterCommand i).respond_ok _ _⟩

/-- Settles O19: each update a step is made of keeps the invariant. -/
theorem everyStepKeepsInvariant : Obligations.EveryStepKeepsInvariant := by
  unfold Obligations.EveryStepKeepsInvariant
  intro s t hs ht
  obtain ⟨u, hu, hinv⟩ := hs.exists_step
  rw [hu] at ht
  injection ht with ht
  exact ht ▸ hinv

/-- Settles O18: `CFG` is (0, 0), which is legal, and nothing has been answered. -/
theorem invariantAtReset : Obligations.InvariantAtReset := by
  unfold Obligations.InvariantAtReset
  exact ⟨Cfg.reset_legal, by simp⟩

/-- Settles O21: both bits are 0 (R29). -/
theorem cfgAfterReset : Obligations.CfgAfterReset := by
  unfold Obligations.CfgAfterReset
  simp

/-! ### Only the first selection and the reset input change `CFG` (R17, R36, R155) -/

/-- A command word without reserved bits is made of its two fields (R42). -/
theorem cw_eq_commandWord {w : Word} {op : Op} (hres : reservedField w = 0)
    (hop : Op.ofOpcode (opcField w) = some op) : w = commandWord op (flagField w) := by
  apply BitVec.eq_of_toNat_eq
  have hhigh := (reservedField_eq_zero_iff w).mp hres
  have hflag := (getLsbD_eq_iff w 8 (flagField w)).mp rfl
  rw [commandWord_toNat, (ofOpcode_opcField_eq_some_iff w op).mp hop]
  omega

/-- The one frame `SYS.SELIMPL` is read from: the command word 0x1 and no operand word (R47). -/
theorem frame_of_decode_selimpl {f : CommandFrame} {i : Instr} (hd : decode f = .ok i)
    (hw : i.wellFormed = true) (hi : i.op = .sysSelimpl) : f = ⟨1, []⟩ := by
  obtain ⟨hres, op, hop, hflag, rfl⟩ := (decode_ok_iff f i).mp hd
  obtain rfl : op = .sysSelimpl := by rw [← hi, op_command]
  have hcw := cw_eq_commandWord hres hop
  have hnoflag : flagField f.cw = false := by simpa [Op.takesFlag] using hflag
  have hlen := (wellFormed_command_iff _ _ _).mp hw
  rw [hnoflag] at hcw
  cases f
  simp only [CommandFrame.mk.injEq]
  exact ⟨hcw, List.length_eq_zero_iff.mp hlen⟩

theorem selimpl_of_cfgAfter_ne {op : Op} {c : Cfg} (h : cfgAfter op c ≠ c) : op = .sysSelimpl ∧ c.selDone = false := by
  by_contra hcond
  exact h (if_neg hcond)

/-- What a step can do to `CFG`: nothing, the reset input, or a well-formed command. -/
theorem step_cfg_cases {s t : State} (h : step s = .next t) :
    t.cfg = s.cfg ∨ (∃ rest, s.inputs = .reset :: rest ∧ t.cfg = Cfg.reset) ∨
    ∃ f rest i, s.inputs = .command f :: rest ∧ decode f = .ok i ∧ i.wellFormed = true ∧
      t.cfg = cfgAfter i.op s.cfg := by
  obtain ⟨-, ht⟩ | ⟨rest, hin, ht⟩ | ⟨f, rest, e, -, -, ht⟩ | ⟨f, rest, i, -, -, -, ht⟩ | ⟨f, rest, i, hin, hd, hw, ht⟩ :=
    step_cases s
  all_goals
    rw [h] at ht
    injection ht with ht
    rw [ht]
  · exact .inl rfl
  · exact .inr (.inl ⟨rest, hin, rfl⟩)
  · exact .inl rfl
  · exact .inl rfl
  · exact .inr (.inr ⟨f, rest, i, hin, hd, hw, afterCommand_cfg i _⟩)

/-- Settles O17: besides the reset input only a well-formed command can change `CFG`, and it changes it only by the
first selection. -/
theorem onlySelimplAndResetChangeCfg : Obligations.OnlySelimplAndResetChangeCfg := by
  unfold Obligations.OnlySelimplAndResetChangeCfg
  intro s t hstep hne
  obtain hcfg | ⟨rest, hin, -⟩ | ⟨f, rest, i, hin, hd, hw, hcfg⟩ := step_cfg_cases hstep
  · exact absurd hcfg hne
  · exact .inl ⟨rest, hin⟩
  · obtain ⟨hi, hsel⟩ := selimpl_of_cfgAfter_ne (hcfg ▸ hne)
    exact .inr ⟨rest, by rw [hin, frame_of_decode_selimpl hd hw hi], hsel⟩

end Sys2Proof.Machine
end

section
/-! PROOFS. The family 20_memory.md: the byte image of frame words, and the order of service. The two directions of the
byte image are inverse to each other, word by word; the answer to a command is fixed by the command up to what it shows
of `CFG`, so a batch is served one command at a time. -/

namespace Sys2Proof

/-! ### Bytes of words (R34) -/

theorem bytesOfWord_getElem? (w : Word) {k : Nat} (h : k < 8) :
    (bytesOfWord w)[k]? = some (w.extractLsb' (8 * k) 8) := by
  interval_cases k <;> rfl

@[simp] theorem bytesOfWord_length (w : Word) : (bytesOfWord w).length = 8 := rfl

@[simp] theorem bytesOfWords_cons (w : Word) (ws : List Word) :
    bytesOfWords (w :: ws) = bytesOfWord w ++ bytesOfWords ws := List.flatMap_cons

theorem bytesOfWords_length (ws : List Word) : (bytesOfWords ws).length = 8 * ws.length := by
  induction ws with
  | nil => rfl
  | cons w ws ih => simp [ih]; omega

theorem bytesOfWords_getElem? {ws : List Word} {i k : Nat} {w : Word} (hw : ws[i]? = some w) (hk : k < 8) :
    (bytesOfWords ws)[8 * i + k]? = some (w.extractLsb' (8 * k) 8) := by
  induction ws generalizing i with
  | nil => simp at hw
  | cons x xs ih =>
    cases i with
    | zero =>
      obtain rfl : x = w := by simpa using hw
      rw [bytesOfWords_cons, List.getElem?_append_left (by simpa using hk)]
      simpa using bytesOfWord_getElem? x hk
    | succ i =>
      rw [bytesOfWords_cons, List.getElem?_append_right (by simp; omega), bytesOfWord_length,
        show 8 * (i + 1) + k - 8 = 8 * i + k by omega]
      exact ih (by simpa using hw)

/-! ### Words of bytes (R34, R35, R51) -/

/-- The bytes of a word joined again, the highest first, are the word. -/
theorem append_bytesOfWord (w : Word) :
    w.extractLsb' 56 8 ++ w.extractLsb' 48 8 ++ w.extractLsb' 40 8 ++ w.extractLsb' 32 8 ++ w.extractLsb' 24 8 ++
      w.extractLsb' 16 8 ++ w.extractLsb' 8 8 ++ w.extractLsb' 0 8 = w := by
  simp (disch := decide) only [BitVec.extractLsb'_append_extractLsb'_eq_extractLsb', BitVec.extractLsb'_eq_self]

theorem bytesOfWord_append (b0 b1 b2 b3 b4 b5 b6 b7 : Byte) :
    bytesOfWord (b7 ++ b6 ++ b5 ++ b4 ++ b3 ++ b2 ++ b1 ++ b0) = [b0, b1, b2, b3, b4, b5, b6, b7] := by
  simp (disch := decide) only [bytesOfWord, BitVec.extractLsb'_append_eq_of_le, BitVec.extractLsb'_append_eq_of_add_le,
    Nat.reduceSub, BitVec.extractLsb'_eq_self]

/-- One word is read off the front of an image. -/
theorem wordsOfBytes_bytesOfWord_append (w : Word) (bs : List Byte) :
    wordsOfBytes (bytesOfWord w ++ bs) = (wordsOfBytes bs).map (w :: ·) := by
  simp only [bytesOfWord, List.cons_append, List.nil_append, wordsOfBytes, append_bytesOfWord]

theorem wordsOfBytes_bytesOfWords (ws : List Word) : wordsOfBytes (bytesOfWords ws) = some ws := by
  induction ws with
  | nil => rfl
  | cons w ws ih => rw [bytesOfWords_cons, wordsOfBytes_bytesOfWord_append, ih, Option.map_some]

theorem bytesOfWords_of_wordsOfBytes {bs : List Byte} {ws : List Word} (h : wordsOfBytes bs = some ws) :
    bytesOfWords ws = bs := by
  induction bs using wordsOfBytes.induct generalizing ws with
  | case1 =>
    obtain rfl : [] = ws := Option.some.inj h
    rfl
  | case2 b0 b1 b2 b3 b4 b5 b6 b7 rest ih =>
    rw [wordsOfBytes, Option.map_eq_some_iff] at h
    obtain ⟨ws, hws, rfl⟩ := h
    rw [bytesOfWords_cons, bytesOfWord_append, ih hws]
    rfl
  | case3 bs hnil hlong => simp [wordsOfBytes] at h

/-- Eight bytes are the bytes of a word. -/
theorem exists_bytesOfWord_eq : ∀ bs : List Byte, bs.length = 8 → ∃ w, bytesOfWord w = bs
  | [b0, b1, b2, b3, b4, b5, b6, b7], _ => ⟨_, bytesOfWord_append b0 b1 b2 b3 b4 b5 b6 b7⟩

theorem exists_bytesOfWords_eq {n : Nat} {bs : List Byte} (h : bs.length = 8 * n) : ∃ ws, bytesOfWords ws = bs := by
  induction n generalizing bs with
  | zero => exact ⟨[], (List.length_eq_zero_iff.mp h).symm⟩
  | succ n ih =>
    obtain ⟨w, hw⟩ := exists_bytesOfWord_eq (bs.take 8) (by rw [List.length_take]; omega)
    obtain ⟨ws, hws⟩ := ih (bs := bs.drop 8) (by rw [List.length_drop]; omega)
    exact ⟨w :: ws, by rw [bytesOfWords_cons, hw, hws, List.take_append_drop]⟩

/-- Settles O6: reading is the inverse of writing on both sides, and an image of a whole number of words is cut into the
bytes of its words. -/
theorem byteImageIsLittleEndian : Obligations.ByteImageIsLittleEndian := by
  unfold Obligations.ByteImageIsLittleEndian
  refine ⟨fun ws i k w => bytesOfWords_getElem?, fun ws => ⟨bytesOfWords_length ws, wordsOfBytes_bytesOfWords ws⟩,
    fun bs ws => bytesOfWords_of_wordsOfBytes, fun bs => ⟨?_, fun h => ?_⟩⟩
  · rintro ⟨ws, h⟩
    rw [← bytesOfWords_of_wordsOfBytes h, bytesOfWords_length, Nat.mul_mod_right]
  · obtain ⟨ws, rfl⟩ := exists_bytesOfWords_eq (Nat.mul_div_cancel' (Nat.dvd_of_mod_eq_zero h)).symm
    exact ⟨ws, wordsOfBytes_bytesOfWords ws⟩

namespace Machine

/-! ### The answer to a command (R38) -/

/-- Every frame has one status, flag and list of result words, and one effect on `CFG`, fixed before the state is: in
any state a step on it answers with them, and `CFG` reaches the answer only through `IMPL` and `SELDONE`. -/
theorem exists_answer (f : CommandFrame) : ∃ (st : Status) (cf : Bool) (out : List Word) (next : Cfg → Cfg),
    ∀ (s : State) (rest : List Input), s.inputs = .command f :: rest →
      step s = .next { cfg := next s.cfg, inputs := rest,
                       responses := s.responses ++ [⟨statusWord st cf (next s.cfg), out⟩] } := by
  cases hd : decode f with
  | error e => exact ⟨.illegal, false, [], id, fun s rest h => step_of_illegal h hd⟩
  | ok i =>
    cases hw : i.wellFormed with
    | false =>
      exact ⟨.badLen, false, [], id, fun s rest h => (step_of_command h hd).trans (exec_of_not_wellFormed hw _)⟩
    | true =>
      refine ⟨.ok, cfOf i, resultsOf i, cfgAfter i.op, fun s rest h => ?_⟩
      rw [step_of_command h hd, exec_of_wellFormed hw]
      simp [State.respond, afterCommand_cfg]

/-- A CORE that knows `CFG` alone answers with one response, made of what `exists_answer` fixes. -/
theorem exists_answerAlone_eq (f : CommandFrame) : ∃ (st : Status) (cf : Bool) (out : List Word) (next : Cfg → Cfg),
    ∀ c, answerAlone c f = (next c, [⟨statusWord st cf (next c), out⟩]) := by
  obtain ⟨st, cf, out, next, hstep⟩ := exists_answer f
  exact ⟨st, cf, out, next, fun c => by rw [answerAlone, hstep _ [] rfl]; rfl⟩

/-- The answer in any state is the answer of a CORE with the same `CFG` and nothing else. -/
theorem step_eq_answerAlone {s : State} {f : CommandFrame} {rest : List Input} (h : s.inputs = .command f :: rest) :
    step s = .next { cfg := (answerAlone s.cfg f).1, inputs := rest,
                     responses := s.responses ++ (answerAlone s.cfg f).2 } := by
  obtain ⟨st, cf, out, next, hstep⟩ := exists_answer f
  rw [answerAlone, hstep s rest h, hstep _ [] rfl]
  rfl

theorem answerAlone_length (c : Cfg) (f : CommandFrame) : (answerAlone c f).2.length = 1 := by
  obtain ⟨st, cf, out, next, h⟩ := exists_answerAlone_eq f
  rw [h]; rfl

/-! ### A batch of commands (R38) -/

theorem serve_length (c : Cfg) (fs : List CommandFrame) : (serve c fs).2.length = fs.length := by
  induction fs generalizing c with
  | nil => rfl
  | cons f fs ih => simp [serve, answerAlone_length, ih, Nat.add_comm]

theorem run_succ_of_step {s t : State} (h : step s = .next t) (n : Nat) :
    Host.Core.run Sys2Proof.core (n + 1) s = Host.Core.run Sys2Proof.core n t := by
  simp only [Host.Core.run, show Sys2Proof.core.step s = .next t from h]

/-- The batch by R38: command after command, each answered from `CFG` as it finds it. -/
theorem run_sent_eq_serve (s : State) (fs : List CommandFrame) (rest : List Input) :
    Host.Core.run Sys2Proof.core fs.length (s.sent fs rest) =
      .next { cfg := (serve s.cfg fs).1, inputs := rest, responses := s.responses ++ (serve s.cfg fs).2 } := by
  induction fs generalizing s with
  | nil => simp [Host.Core.run, serve, State.sent, State.withInputs]
  | cons f fs ih =>
    have hstep : step (s.sent (f :: fs) rest) = .next (State.sent
        ⟨(answerAlone s.cfg f).1, rest, s.responses ++ (answerAlone s.cfg f).2⟩ fs rest) := step_eq_answerAlone rfl
    rw [List.length_cons, run_succ_of_step hstep, ih]
    simp [serve]

/-- Below `IMPL` a status word is its status and its flag (R45). -/
theorem statusWord_mod (st : Status) (cf : Bool) (cfg : Cfg) :
    (statusWord st cf cfg).toNat % 2 ^ 9 = st.code + cf.toNat * 2 ^ 8 := by
  have := st.code_le; have := cf.toNat_le
  rw [statusWord_toNat]; omega

/-- Settles O14: the batch is served command by command, and the results, the status and `CF` of an answer are fixed
before `CFG` is. -/
theorem responsesAreServedInOrder : Obligations.ResponsesAreServedInOrder := by
  unfold Obligations.ResponsesAreServedInOrder
  refine ⟨fun s fs rest => ⟨run_sent_eq_serve s fs rest, serve_length s.cfg fs⟩, fun c c' f => ?_⟩
  obtain ⟨st, cf, out, next, h⟩ := exists_answerAlone_eq f
  simp only [h, List.map_cons, List.map_nil, statusWord_mod]

end Machine

end Sys2Proof
end

section
/-! PROOFS. The family 30_encoding.md: the decoder and the encoder are inverse to each other, which words and which
lengths the columns of R47 make legal, and the one response each frame gets. -/

namespace Sys2Proof

open Machine

/-! ### Decoding what was encoded (R42, R44) -/

/-- A command has `FLAG` = 1 only where the column `FLAG` says so (R43). -/
theorem flag_taken (i : Instr) : (i.flag && !i.op.takesFlag) = false := by
  cases i <;> simp [Instr.flag, Instr.op, Op.takesFlag]

/-- The slots of a well-formed command are cut out of its operand words again, as each slot but the last has its
width. -/
theorem command_operands {i : Instr} (h : i.wellFormed = true) : i.op.command i.flag i.operands = i := by
  cases i <;> simp only [Instr.wellFormed, Bool.and_eq_true, isLimbs_iff] at h
  case edDbl P => exact congrArg Instr.edDbl (edPointOfWords_words h)
  case mlStep f S => exact congrArg (Instr.mlStep f) (mlStateOfWords_words h)
  case mlDbl S => exact congrArg Instr.mlDbl (mlStateOfWords_words h)
  case edAdd P Q | edMadd P Q =>
    have hP := Laws.edPointWords_length h.1
    simp only [Instr.op, Instr.operands, Op.command, List.take_left' hP, List.drop_left' hP,
      edPointOfWords_words h.1, edEntryOfWords_words h.2]
  case mlDadd S fx =>
    have hS := Laws.mlStateWords_length h.1
    simp only [Instr.op, Instr.operands, Op.command, List.take_left' hS, List.drop_left' hS, mlStateOfWords_words h.1]
  all_goals
    simp [Instr.op, Instr.flag, Instr.operands, Op.command, List.take_left', List.drop_left', Laws.fp2Words_length,
      fp2OfWords_words, h]

/-- Settles O1: the command word gives the opcode and the flag back, and the operand words the slots. -/
theorem decodeOfEncodeIsIdentity : Obligations.DecodeOfEncodeIsIdentity := by
  unfold Obligations.DecodeOfEncodeIsIdentity
  intro i hi
  rw [encode, decode_commandWord (flag_taken i), command_operands hi]

/-! ### Encoding what was decoded (R42, R44, R49) -/

theorem encode_of_decode {f : CommandFrame} {i : Instr} (h : decode f = .ok i) : encode i = f := by
  obtain ⟨hres, op, hop, hflag, rfl⟩ := (decode_ok_iff f i).mp h
  have hfl : (flagField f.cw && op.takesFlag) = flagField f.cw := by
    cases hb : flagField f.cw with
    | false => rfl
    | true => simpa [hb] using hflag
  rw [encode, op_command, flag_command, operands_command, hfl, ← cw_eq_commandWord hres hop]

/-- Settles O2: the word is its two fields, and the slots lose no operand word. -/
theorem encodeOfDecodeIsIdentity : Obligations.EncodeOfDecodeIsIdentity := by
  unfold Obligations.EncodeOfDecodeIsIdentity
  exact fun f i => encode_of_decode

/-! ### The legal command words (R47, R146) -/

theorem exists_decode_ok_iff (f : CommandFrame) : (∃ i, decode f = .ok i) ↔ ¬ IllegalWord f.cw := by
  refine ⟨fun ⟨i, hi⟩ => ?_, fun h => ?_⟩
  · obtain ⟨hres, op, hop, hflag, -⟩ := (decode_ok_iff f i).mp hi
    exact (not_illegalWord_iff f.cw).mpr ⟨hres, op, hop, hflag⟩
  · obtain ⟨op, -, hd⟩ := exists_op_decode_of_legal h
    exact ⟨_, hd⟩

theorem lt_of_mem_opcodeColumn : ∀ n ∈ opcodeColumn, n < 2 ^ 8 := by decide

theorem flagColumn_subset_opcodeColumn : ∀ n ∈ flagColumn, n ∈ opcodeColumn := by decide

/-- The words the check of R146 lets pass: every opcode with `FLAG` = 0, and those that take a flag with `FLAG` = 1. -/
theorem not_illegalWord_iff_mem_columns (w : Word) :
    ¬ IllegalWord w ↔ w.toNat ∈ opcodeColumn ++ flagColumn.map (· + 0x100) := by
  simp only [IllegalWord, not_or, not_not, not_and, List.mem_append, List.mem_map]
  generalize w.toNat = n
  refine ⟨fun ⟨hhigh, hopc, hflag⟩ => ?_, ?_⟩
  · by_cases hbit : n / 2 ^ 8 % 2 = 1
    · exact .inr ⟨n % 2 ^ 8, hflag hbit, by omega⟩
    · exact .inl (by rwa [show n % 2 ^ 8 = n by omega] at hopc)
  · rintro (hopc | ⟨m, hm, rfl⟩)
    · have hlt := lt_of_mem_opcodeColumn n hopc
      exact ⟨by omega, by rwa [Nat.mod_eq_of_lt hlt], fun hbit => by omega⟩
    · have hopc := flagColumn_subset_opcodeColumn m hm
      have hlt := lt_of_mem_opcodeColumn m hopc
      have hmod : (m + 0x100) % 2 ^ 8 = m := by omega
      exact ⟨by omega, by rwa [hmod], fun _ => by rwa [hmod]⟩

/-- Settles O3: the decoder accepts what the check of R146 lets pass, and that check lets the 44 words pass. -/
theorem legalCommandWordsAreThe44 : Obligations.LegalCommandWordsAreThe44 := by
  unfold Obligations.LegalCommandWordsAreThe44
  exact ⟨rfl, fun f => ⟨(exists_decode_ok_iff f).trans (not_illegalWord_iff_mem_columns f.cw), exists_decode_ok_iff f⟩⟩

/-! ### The lengths of a frame and of its answer (R46, R47) -/

/-- The columns `INW` and `OUTW`, written twice, agree. -/
theorem frameWords_opcode (op : Op) : frameWords op.opcode.toNat = (op.inw, op.outw) := by cases op <;> rfl

/-- Settles O4: the slots have their widths exactly when the words are `INW(op)` of them. -/
theorem wellFormedIffOperandCount : Obligations.WellFormedIffOperandCount := by
  unfold Obligations.WellFormedIffOperandCount
  intro f i hd
  obtain ⟨-, op, hop, -, rfl⟩ := (decode_ok_iff f i).mp hd
  rw [← (ofOpcode_opcField_eq_some_iff f.cw op).mp hop, frameWords_opcode]
  exact wellFormed_command_iff op _ _

/-! ### Sample frames -/

/-- Settles O5: the decoder computes each. -/
theorem sampleFramesDecode : Obligations.SampleFramesDecode := by
  unfold Obligations.SampleFramesDecode
  refine ⟨?_, ?_, ?_, ?_, ?_, ?_, ?_⟩ <;> rfl

namespace Machine

/-! ### A step and the frame at the head of the channel (R38, R49) -/

theorem decode_tableFrame {nbits w : Nat} {i : Instr} (h : decodeTableWord nbits w = some i) :
    decode (tableFrame nbits w) = .ok i := by
  cases hd : decode (tableFrame nbits w) with
  | error e => simp [decodeTableWord, hd] at h
  | ok j => rw [show j = i by simpa [decodeTableWord, hd] using h]

/-- Settles O7: the step takes the frame and runs its command; `withFetchWord` puts the frame at the head. -/
theorem stepRunsTheDecodedCommand : Obligations.StepRunsTheDecodedCommand := by
  unfold Obligations.StepRunsTheDecodedCommand
  exact ⟨fun s f rest i hin hd => step_of_command hin hd,
    fun s nbits w i hd => step_of_command (s := s.withFetchWord nbits w) rfl (decode_tableFrame hd)⟩

theorem exists_reject_of_illegal {f : CommandFrame} (h : IllegalWord f.cw) : ∃ e, decode f = .error e := by
  cases hd : decode f with
  | error e => exact ⟨e, rfl⟩
  | ok i => exact absurd h ((exists_decode_ok_iff f).mp ⟨i, hd⟩)

theorem sent_eq_self {s : State} {f : CommandFrame} {rest : List Input} (h : s.inputs = .command f :: rest) :
    s.sent [f] rest = s := by
  simp [State.sent, State.withInputs, ← h]

/-- Settles O11: an illegal word is rejected, and the answer to a legal frame is the public outcome of its opcode and
its number of operand words. -/
theorem everyFrameGetsOneResponse : Obligations.EveryFrameGetsOneResponse := by
  unfold Obligations.EveryFrameGetsOneResponse
  intro s f rest hin
  by_cases hill : IllegalWord f.cw
  · obtain ⟨e, he⟩ := exists_reject_of_illegal hill
    refine ⟨_, _, step_of_illegal hin he, State.reject_inputs _ _, State.reject_responses _ _, fun _ => ?_,
      fun h => absurd hill h, fun h => absurd hill h⟩
    exact ⟨swStatus_statusWord _ _ _, rfl⟩
  · obtain ⟨op, hop, hstep⟩ := step_legal_publicOutcome hill
    obtain ⟨t, r, ht, htin, hresp, hpub⟩ := hstep s rest
    rw [sent_eq_self hin] at ht
    rw [← hop, frameWords_opcode]
    refine ⟨t, r, ht, htin, hresp, fun h => absurd h hill, fun _ hlen => ?_, fun _ hlen => ?_⟩
    · rw [publicOutcome, if_neg hlen] at hpub
      injection hpub with _ hstatus hwords
      exact ⟨hstatus.symm, hwords.symm⟩
    · rw [publicOutcome, if_pos hlen] at hpub
      injection hpub with _ hstatus hwords
      exact ⟨hstatus.symm, hwords.symm⟩

/-! ### The status word of an answer (R45) -/

/-- The command words of the commands that write `CF` (10_state.md R16). -/
theorem cw_of_cfOf {f : CommandFrame} {i : Instr} (hd : decode f = .ok i) (hcf : cfOf i = true) :
    f.cw.toNat ∈ [0x10, 0x11, 0x20, 0x21] := by
  obtain rfl := encode_of_decode hd
  cases i
  case lv2Add | lv2Sub | lv6Add | lv6Sub => simp [encode, Instr.op, Instr.flag, commandWord_toNat, Op.opcode]
  all_goals exact absurd hcf Bool.false_ne_true

theorem eq_of_respond {s u t : State} {st : Status} {cf : Bool} {out : List Word} {r : ResponseFrame}
    (ht : t = u.respond st cf out) (hu : u.responses = s.responses) (hr : t.responses = s.responses ++ [r]) :
    r = ⟨statusWord st cf t.cfg, out⟩ := by
  subst ht
  rw [State.respond_responses, hu] at hr
  exact (List.singleton_inj.mp (List.append_cancel_left hr)).symm

/-- What one step can answer: `IMPL` and `SELDONE` are read from `CFG` after the command, and `CF` from the command. -/
theorem exists_statusWord_of_response {s t : State} {r : ResponseFrame} (ht : step s = .next t)
    (hr : t.responses = s.responses ++ [r]) :
    ∃ st cf out, r = ⟨statusWord st cf t.cfg, out⟩ ∧ (cf = true → st = .ok ∧
      ∃ f rest i, s.inputs = .command f :: rest ∧ decode f = .ok i ∧ cfOf i = true) := by
  obtain ⟨-, hs⟩ | ⟨rest, -, hs⟩ | ⟨f, rest, e, -, -, hs⟩ | ⟨f, rest, i, -, -, -, hs⟩ | ⟨f, rest, i, hin, hd, -, hs⟩ :=
    step_cases s
  all_goals
    rw [ht] at hs
    injection hs with hs
  · exact absurd hr (by simp [hs])
  · exact absurd hr (by simp [hs])
  · exact ⟨.illegal, false, [], eq_of_respond hs rfl hr, nofun⟩
  · exact ⟨.badLen, false, [], eq_of_respond hs rfl hr, nofun⟩
  · exact ⟨.ok, cfOf i, resultsOf i, eq_of_respond hs (afterCommand_responses i _) hr, fun hcf => ⟨rfl, f, rest, i, hin, hd, hcf⟩⟩

/-- Settles O13: the fields are those of `statusWord`, and every answer of a step is one of its words. -/
theorem statusWordFields : Obligations.StatusWordFields := by
  unfold Obligations.StatusWordFields
  refine ⟨fun s st cf out => rfl, fun st cf cfg => ⟨?_, swCf_statusWord st cf cfg, swImpl_statusWord st cf cfg,
    swSelDone_statusWord st cf cfg, Nat.div_eq_of_lt (statusWord_lt st cf cfg)⟩, fun s t r ht hr => ?_⟩
  · rw [swStatus_statusWord]; cases st <;> rfl
  · obtain ⟨st, cf, out, rfl, hcf⟩ := exists_statusWord_of_response ht hr
    simp only [swStatus_statusWord, swCf_statusWord, swImpl_statusWord, swSelDone_statusWord]
    refine ⟨trivial, trivial, st.code_le, Nat.div_eq_of_lt (statusWord_lt st cf t.cfg), fun h => ?_⟩
    obtain ⟨rfl, f, rest, i, hin, hd, hi⟩ := hcf h
    exact ⟨rfl, f, rest, hin, cw_of_cfOf hd hi⟩

end Machine

end Sys2Proof
end

section
/-! PROOFS. The family 40_limbvector.md: the limb-vector commands. The value and the flag of an addition and of a
subtraction at any width, what selection and exchange return, and from them the commands at both widths and their
laws. -/

namespace Sys2Proof.Machine

/-! ### Frames given by their words (R42, R44) -/

theorem decode_words (op : Op) (flag : Bool) {i : Instr} {cw : Word} {ws : List Word} (hw : i.wellFormed = true)
    (hi : encode i = ⟨commandWord op flag, ws⟩) (hcw : commandWord op flag = cw) : decode ⟨cw, ws⟩ = .ok i := by
  rw [← hcw, ← hi]
  exact decodeOfEncodeIsIdentity i hw

theorem decode_words_flag_not_taken (op : Op) {cw : Word} (h : op.takesFlag = false) (hcw : commandWord op true = cw)
    (ws : List Word) : decode ⟨cw, ws⟩ = .error .flagNotTaken := by
  rw [← hcw, decode_flag_not_taken h]

/-- A command other than `SYS.SELIMPL` does no more than answer. -/
theorem exec_eq_respond {i : Instr} (hw : i.wellFormed = true) (hop : i.op ≠ .sysSelimpl) (s : State) :
    exec i s = .next (s.respond .ok (cfOf i) (resultsOf i)) := by
  rw [exec_of_wellFormed hw, afterCommand_eq_self hop]

/-! ### Addition (R59, R60) -/

theorem lvAdd_val (n : Nat) (a b : List Limb) : val (lvAdd n a b).1 = (val a + val b) % 2 ^ (64 * n) := by
  rw [lvAdd, val_vec_mod, Nat.mod_mod]

/-- The carry is all of the quotient, as a sum of two `n`-limb values is below `2 * 2^(64n)`. -/
theorem lvAdd_carry {n : Nat} {a b : List Limb} (ha : a.length = n) (hb : b.length = n) :
    (lvAdd n a b).2.toNat = (val a + val b) / 2 ^ (64 * n) := by
  have hva := val_lt_of_length ha
  have hvb := val_lt_of_length hb
  have hq : (val a + val b) / 2 ^ (64 * n) < 2 := Nat.div_lt_of_lt_mul (by omega)
  simp only [lvAdd, carryOut]
  obtain h | h := Nat.le_one_iff_eq_zero_or_eq_one.mp (Nat.le_of_lt_succ hq) <;> simp [h]

theorem lvAdd_exact {n : Nat} {a b : List Limb} (ha : a.length = n) (hb : b.length = n) :
    val (lvAdd n a b).1 + (lvAdd n a b).2.toNat * 2 ^ (64 * n) = val a + val b := by
  rw [lvAdd_val, lvAdd_carry ha hb, Nat.mod_add_div']

/-- The sum fits the width, or the carry stands for the modulus it lost. -/
theorem lvAdd_cases {n : Nat} {a b : List Limb} (ha : a.length = n) (hb : b.length = n) :
    (lvAdd n a b).2 = false ∧ val (lvAdd n a b).1 = val a + val b ∨
    (lvAdd n a b).2 = true ∧ val (lvAdd n a b).1 + 2 ^ (64 * n) = val a + val b := by
  have hsum := lvAdd_exact ha hb
  cases hcf : (lvAdd n a b).2
  · exact .inl ⟨rfl, by simpa [hcf] using hsum⟩
  · exact .inr ⟨rfl, by simpa [hcf] using hsum⟩

theorem lvAdd_comm (n : Nat) (a b : List Limb) : lvAdd n a b = lvAdd n b a := by
  simp only [lvAdd, carryOut, Nat.add_comm]

set_option exponentiation.threshold 400 in
/-- Settles O26: the result and the carry are the remainder and the quotient of the exact sum. -/
theorem lvAddGivesSumAndCarry : Obligations.LvAddGivesSumAndCarry := by
  unfold Obligations.LvAddGivesSumAndCarry
  refine ⟨fun a b ha hb => ?_, fun a b ha hb => ?_⟩
  · have hw : (Instr.lv2Add a b).wellFormed = true := by simp [Instr.wellFormed, ha, hb]
    exact ⟨decode_words .lv2Add false hw rfl rfl, decode_words_flag_not_taken .lv2Add rfl rfl _,
      fun s => ⟨_, _, exec_eq_respond hw nofun s, lvAdd_length 2 a b, lvAdd_val 2 a b, lvAdd_carry ha hb⟩⟩
  · have hw : (Instr.lv6Add a b).wellFormed = true := by simp [Instr.wellFormed, ha, hb]
    exact ⟨decode_words .lv6Add false hw rfl rfl, decode_words_flag_not_taken .lv6Add rfl rfl _,
      fun s => ⟨_, _, exec_eq_respond hw nofun s, lvAdd_length 6 a b, lvAdd_val 6 a b, lvAdd_carry ha hb⟩⟩

/-! ### Subtraction (R61, R62) -/

theorem lvSub_exact {n : Nat} {a b : List Limb} (ha : a.length = n) (hb : b.length = n) :
    (val (lvSub n a b).1 : Int) - (lvSub n a b).2.toNat * 2 ^ (64 * n) = val a - val b := by
  have hva := val_lt_of_length ha
  have hvb := val_lt_of_length hb
  rw [lvSub_val hva hvb, lvSub_borrow]
  by_cases h : val a < val b
  · simp only [h, if_true, decide_true, Bool.toNat_true]
    push_cast [show val b ≤ val a + 2 ^ (64 * n) by omega]
    ring
  · simp [h, Nat.le_of_not_lt h]

/-- The result is the residue of the difference: it differs from it by a multiple of the modulus and is below it. -/
theorem lvSub_emod {n : Nat} {a b : List Limb} (ha : a.length = n) (hb : b.length = n) :
    (val (lvSub n a b).1 : Int) = ((val a : Int) - val b) % 2 ^ (64 * n) := by
  have hlt := val_lt_of_length (lvSub_length n a b)
  rw [← lvSub_exact ha hb, Int.sub_mul_emod_self_right, Int.emod_eq_of_lt (by omega) (by exact_mod_cast hlt)]

theorem lvSub_borrow_iff (n : Nat) (a b : List Limb) : (lvSub n a b).2 = true ↔ val a < val b := by
  rw [lvSub_borrow, decide_eq_true_iff]

theorem lvSub_self (n : Nat) (a : List Limb) : lvSub n a a = (vec n 0, false) := by
  simp [lvSub, borrowOut_eq]

/-- Subtraction undoes addition, and borrows where the addition carried: only then is the sum below its summand. -/
theorem lvSub_lvAdd {n : Nat} {a b : List Limb} (ha : a.length = n) (hb : b.length = n) :
    lvSub n (lvAdd n a b).1 b = (a, (lvAdd n a b).2) := by
  have hva := val_lt_of_length ha
  have hvb := val_lt_of_length hb
  have hvr := val_lt_of_length (lvAdd_length n a b)
  have hlen : (lvSub n (lvAdd n a b).1 b).1.length = a.length := by rw [lvSub_length, ha]
  obtain ⟨hcf, hsum⟩ | ⟨hcf, hsum⟩ := lvAdd_cases ha hb
  · have hborrow : ¬ val (lvAdd n a b).1 < val b := by omega
    refine Prod.ext (eq_of_val_eq hlen ?_) ?_
    · rw [lvSub_val hvr hvb, if_neg hborrow, hsum, Nat.add_sub_cancel]
    · rw [lvSub_borrow, hcf, decide_eq_false hborrow]
  · have hborrow : val (lvAdd n a b).1 < val b := by omega
    refine Prod.ext (eq_of_val_eq hlen ?_) ?_
    · rw [lvSub_val hvr hvb, if_pos hborrow, hsum, Nat.add_sub_cancel]
    · rw [lvSub_borrow, hcf, decide_eq_true hborrow]

/-- Settles O27: the result is the residue of the difference, and the borrow says that the difference is negative. -/
theorem lvSubGivesDifferenceAndBorrow : Obligations.LvSubGivesDifferenceAndBorrow := by
  unfold Obligations.LvSubGivesDifferenceAndBorrow
  refine ⟨fun a b ha hb => ?_, fun a b ha hb => ?_⟩
  · have hw : (Instr.lv2Sub a b).wellFormed = true := by simp [Instr.wellFormed, ha, hb]
    exact ⟨decode_words .lv2Sub false hw rfl rfl, decode_words_flag_not_taken .lv2Sub rfl rfl _,
      fun s => ⟨_, _, exec_eq_respond hw nofun s, lvSub_length 2 a b, lvSub_emod ha hb, lvSub_borrow_iff 2 a b⟩⟩
  · have hw : (Instr.lv6Sub a b).wellFormed = true := by simp [Instr.wellFormed, ha, hb]
    exact ⟨decode_words .lv6Sub false hw rfl rfl, decode_words_flag_not_taken .lv6Sub rfl rfl _,
      fun s => ⟨_, _, exec_eq_respond hw nofun s, lvSub_length 6 a b, lvSub_emod ha hb, lvSub_borrow_iff 6 a b⟩⟩

/-! ### Selection and exchange (R63 to R66) -/

theorem lvCswap_eq (f : Bool) {a b : List Limb} (h : a.length = b.length) :
    lvCswap f a b = if f then (b, a) else (a, b) := by
  rw [lvCswap, selN_eq f h, selN_eq f h.symm]
  cases f <;> rfl

theorem lvCswap_involutive (f : Bool) {a b : List Limb} (h : a.length = b.length) :
    lvCswap f (lvCswap f a b).1 (lvCswap f a b).2 = (a, b) := by
  rw [lvCswap_eq f h]
  cases f
  · exact lvCswap_eq false h
  · exact lvCswap_eq true h.symm

theorem lvCswap_words (f : Bool) {a b : List Limb} (h : a.length = b.length) :
    (lvCswap f a b).1 ++ (lvCswap f a b).2 = if f then b ++ a else a ++ b := by
  rw [lvCswap_eq f h]
  cases f <;> rfl

/-- Settles O28: the mask selects a whole operand, and the exchange is two selections. -/
theorem lvSelectAndSwap : Obligations.LvSelectAndSwap := by
  unfold Obligations.LvSelectAndSwap
  refine ⟨fun f a b ha hb => ?_, fun f a b ha hb => ?_⟩
  · have hlen : a.length = b.length := ha.trans hb.symm
    have hsel : (Instr.lv2Csel f a b).wellFormed = true := by simp [Instr.wellFormed, ha, hb]
    have hswap : (Instr.lv2Cswap f a b).wellFormed = true := by simp [Instr.wellFormed, ha, hb]
    exact ⟨decode_words .lv2Csel f hsel rfl (by cases f <;> rfl),
      decode_words .lv2Cswap f hswap rfl (by cases f <;> rfl),
      fun s => ⟨selN_eq f hlen ▸ exec_eq_respond hsel nofun s,
        lvCswap_words f hlen ▸ exec_eq_respond hswap nofun s⟩⟩
  · have hlen : a.length = b.length := ha.trans hb.symm
    have hsel : (Instr.lv6Csel f a b).wellFormed = true := by simp [Instr.wellFormed, ha, hb]
    have hswap : (Instr.lv6Cswap f a b).wellFormed = true := by simp [Instr.wellFormed, ha, hb]
    exact ⟨decode_words .lv6Csel f hsel rfl (by cases f <;> rfl),
      decode_words .lv6Cswap f hswap rfl (by cases f <;> rfl),
      fun s => ⟨selN_eq f hlen ▸ exec_eq_respond hsel nofun s,
        lvCswap_words f hlen ▸ exec_eq_respond hswap nofun s⟩⟩

/-! ### The laws (R68) -/

/-- Settles O29: none of the laws depends on the width. -/
theorem lvLaws : Obligations.LvLaws := by
  unfold Obligations.LvLaws
  intro n _ a b ha hb
  have hlen : a.length = b.length := ha.trans hb.symm
  exact ⟨lvAdd_exact ha hb, lvSub_exact ha hb, lvAdd_comm n a b, lvSub_self n a, lvSub_lvAdd ha hb,
    fun f => ⟨by rw [selN_eq f rfl, ite_self], lvCswap_involutive f hlen, rfl, rfl⟩⟩

end Sys2Proof.Machine
end

section
/-! PROOFS. The family 41_f127.md: the F127 commands. What two folds keep of a value (its class modulo `P127` and
whether it is zero) fixes it in `NR127`; from that the closed forms, the congruence of every operation, and the field
laws. -/

namespace Sys2Proof.Machine

open Config (P127)

/-! ### Two folds (R71) -/

theorem mod2_of_lt {v : Nat} (h : v < 2 ^ 127) : mod2 v = v := by
  have hfold : fold127 v = v := by rw [fold127, Nat.mod_eq_of_lt h, Nat.div_eq_of_lt h, Nat.add_zero]
  rw [mod2, hfold, hfold]

/-- `2^127` is 1 modulo `P127`, so that a fold takes away a multiple of `P127`. -/
theorem fold127_modEq (v : Nat) : fold127 v ≡ v [MOD P127] := by
  simp only [fold127, P127, Nat.ModEq]; omega

theorem mod2_modEq (v : Nat) : mod2 v ≡ v [MOD P127] := (fold127_modEq _).trans (fold127_modEq v)

theorem fold127_eq_zero_iff (v : Nat) : fold127 v = 0 ↔ v = 0 := by
  simp only [fold127]; omega

theorem mod2_eq_zero_iff (v : Nat) : mod2 v = 0 ↔ v = 0 := (fold127_eq_zero_iff _).trans (fold127_eq_zero_iff v)

theorem mod2_eq_P127_iff {v : Nat} (h : v < 2 ^ 128) : mod2 v = P127 ↔ v = P127 ∨ v = 2 * P127 := by
  simp only [mod2, fold127, P127]; omega

/-- The class modulo `P127`, with zero told apart from `P127`, fixes a value of `NR127`. -/
theorem eq_closedForm {r v : Nat} (hr : r < 2 ^ 127) (hmod : r ≡ v [MOD P127]) (hzero : r = 0 ↔ v = 0) :
    r = if v = 0 then 0 else (v - 1) % P127 + 1 := by
  simp only [P127, Nat.ModEq] at *
  split <;> omega

theorem mod2_eq {v : Nat} (h : v < 2 ^ 128) : mod2 v = if v = 0 then 0 else (v - 1) % P127 + 1 :=
  eq_closedForm (mod2_lt h) (mod2_modEq v) (mod2_eq_zero_iff v)

/-- Settles O30: the fold keeps the class and the zero, which give the closed form. -/
theorem twoFoldsClosedForm : Obligations.TwoFoldsClosedForm := by
  unfold Obligations.TwoFoldsClosedForm
  exact ⟨fun v h => ⟨mod2_eq h, mod2_lt h, mod2_modEq v, mod2_eq_zero_iff v, mod2_eq_P127_iff h⟩, by decide⟩

/-! ### The working domain (R11, R83) -/

theorem NR127.le_P127 {a : List Limb} (h : NR127 a) : val a ≤ P127 := Nat.le_sub_one_of_lt h.2

theorem NR127.lazy {a : List Limb} (h : NR127 a) : LAZY127 a := ⟨h.1, h.2.trans (by decide)⟩

theorem NR127.add_lt {a b : List Limb} (ha : NR127 a) (hb : NR127 b) : val a + val b < 2 ^ 128 :=
  Nat.add_lt_add ha.2 hb.2

theorem NR127.mul_lt {a b : List Limb} (ha : NR127 a) (hb : NR127 b) : val a * val b < 2 ^ 254 :=
  (Nat.mul_lt_mul'' ha.2 hb.2).trans_eq (Nat.pow_add 2 127 127).symm

/-! ### Addition (R72) -/

theorem nr127_f127Add (a b : List Limb) : NR127 (f127Add a b) :=
  ⟨f127Add_length a b, f127Add_val a b ▸ mod2_lt (Nat.mod_lt _ (Nat.two_pow_pos 128))⟩

theorem f127Add_modEq {a b : List Limb} (h : val a + val b < 2 ^ 128) :
    val (f127Add a b) ≡ val a + val b [MOD P127] := by
  rw [f127Add_val, Nat.mod_eq_of_lt h]
  exact mod2_modEq _

/-- The lost carry weighs `2^128`, which is 2 modulo `P127` (R72). -/
theorem f127Add_modEq_of_carry {a b : List Limb} (ha : a.length = 2) (hb : b.length = 2)
    (h : 2 ^ 128 ≤ val a + val b) : val (f127Add a b) + 2 ≡ val a + val b [MOD P127] := by
  have hva := val_lt_of_length ha
  have hvb := val_lt_of_length hb
  have hcarry : (val a + val b) % 2 ^ 128 + 2 ≡ val a + val b [MOD P127] := by
    simp only [P127, Nat.ModEq]; omega
  rw [f127Add_val]
  exact ((mod2_modEq _).add_right 2).trans hcarry

/-- Settles O31: the folds of the 2-limb sum, which is the sum or the sum less the carry. -/
theorem f127AddResult : Obligations.F127AddResult := by
  unfold Obligations.F127AddResult
  intro a b ha hb
  have hw : (Instr.f127Add a b).wellFormed = true := by simp [Instr.wellFormed, ha, hb]
  exact ⟨decode_words .f127Add false hw rfl rfl, decode_words_flag_not_taken .f127Add rfl rfl _,
    fun s => ⟨_, exec_eq_respond hw nofun s, f127Add_length a b, (nr127_f127Add a b).2,
      (f127Add_val a b).trans (mod2_eq (Nat.mod_lt _ (Nat.two_pow_pos 128))), f127Add_modEq,
      f127Add_modEq_of_carry ha hb⟩⟩

/-! ### Negation (R73) -/

theorem nr127_f127Neg {a : List Limb} (ha : a.length = 2) : NR127 (f127Neg a) :=
  ⟨f127Neg_length a, f127Neg_val ha ▸ mod2_lt (xor_P127_lt (val_lt_of_length ha))⟩

theorem f127Neg_val_of_lt {a : List Limb} (ha : a.length = 2) (h : val a < 2 ^ 127) :
    val (f127Neg a) = P127 - val a := by
  rw [f127Neg_val ha, xor_P127 h]
  exact mod2_of_lt (by simp only [P127]; omega)

/-- Outside `NR127` bit 127 stays set, and the folds add it at the bottom. -/
theorem f127Neg_val_of_ge {a : List Limb} (ha : a.length = 2) (h : 2 ^ 127 ≤ val a) :
    val (f127Neg a) = if val a = 2 ^ 127 then 1 else 2 ^ 128 - val a := by
  have hlt := val_lt_of_length ha
  obtain ⟨x, hx⟩ := Nat.exists_eq_add_of_le h
  rw [f127Neg_val ha, hx, xor_P127_top (by omega)]
  simp only [mod2, fold127, P127]
  split <;> omega

/-- Settles O32: the complement of the value bits is `p` less the value, and bit 127 folds to 1. -/
theorem f127NegResult : Obligations.F127NegResult := by
  unfold Obligations.F127NegResult
  intro a ha
  have hw : (Instr.f127Neg a).wellFormed = true := by simp [Instr.wellFormed, ha]
  refine ⟨decode_words .f127Neg false hw rfl rfl, decode_words_flag_not_taken .f127Neg rfl rfl _,
    fun s => ⟨_, exec_eq_respond hw nofun s, f127Neg_length a, f127Neg_val_of_lt ha, fun h => ?_, fun h => ?_⟩⟩
  · exact (f127Neg_val_of_ge ha h.ge).trans (if_pos h)
  · exact (f127Neg_val_of_ge ha h.le).trans (if_neg h.ne')

/-! ### Subtraction (R74) -/

theorem nr127_f127Sub (a : List Limb) {b : List Limb} (hb : b.length = 2) : NR127 (f127Sub a b) :=
  f127Sub_eq hb ▸ nr127_f127Add a _

/-- On `NR127` the sum of `a` and the negation carries nothing out. -/
theorem NR127.add_neg_lt {a b : List Limb} (ha : NR127 a) (hb : NR127 b) : val a + (P127 - val b) < 2 ^ 128 := by
  rw [← f127Neg_val_of_lt hb.1 hb.2]
  exact ha.add_lt (nr127_f127Neg hb.1)

theorem f127Sub_val {a b : List Limb} (ha : NR127 a) (hb : NR127 b) :
    val (f127Sub a b) = mod2 (val a + (P127 - val b)) := by
  rw [f127Sub_eq hb.1, f127Add_val, f127Neg_val_of_lt hb.1 hb.2, Nat.mod_eq_of_lt (ha.add_neg_lt hb)]

theorem f127Sub_modEq {a b : List Limb} (ha : NR127 a) (hb : NR127 b) :
    val (f127Sub a b) + val b ≡ val a [MOD P127] := by
  rw [f127Sub_val ha hb]
  calc mod2 (val a + (P127 - val b)) + val b
    _ ≡ val a + (P127 - val b) + val b [MOD P127] := (mod2_modEq _).add_right _
    _ = val a + P127 := by rw [Nat.add_assoc, Nat.sub_add_cancel hb.le_P127]
    _ ≡ val a [MOD P127] := Nat.add_modEq_right

/-- `a + p - b` is zero only for `0 - p`. -/
theorem f127Sub_closedForm {a b : List Limb} (ha : NR127 a) (hb : NR127 b) :
    val (f127Sub a b) = if val a = 0 ∧ val b = P127 then 0 else (val a + P127 - val b - 1) % P127 + 1 := by
  have hle := hb.le_P127
  have hzero : val a + (P127 - val b) = 0 ↔ val a = 0 ∧ val b = P127 := by omega
  rw [f127Sub_val ha hb, mod2_eq (ha.add_neg_lt hb), Nat.add_sub_assoc hle]
  simp only [hzero]

/-- Settles O33: the exact `a + p - b` fits 128 bits on `NR127`, and the folds keep its class. -/
theorem f127SubResult : Obligations.F127SubResult := by
  unfold Obligations.F127SubResult
  intro a b ha hb
  have hw : (Instr.f127Sub a b).wellFormed = true := by simp [Instr.wellFormed, ha, hb]
  have hexec := exec_eq_respond hw nofun
  exact ⟨decode_words .f127Sub false hw rfl rfl, decode_words_flag_not_taken .f127Sub rfl rfl _,
    fun s => ⟨f127Sub_eq hb ▸ hexec s, fun hva hvb => ⟨_, hexec s, f127Sub_length a b,
      (nr127_f127Sub a hb).2, f127Sub_modEq ⟨ha, hva⟩ ⟨hb, hvb⟩,
      f127Sub_closedForm ⟨ha, hva⟩ ⟨hb, hvb⟩⟩⟩⟩

/-! ### Multiplication and squaring (R75, R76) -/

/-- A product of two values of `NR127` loses nothing in `V` of R75. -/
theorem mulFold_eq {T : Nat} (h : T < 2 ^ 254) :
    mulFold T = T % 2 ^ 128 % 2 ^ 127 + T % 2 ^ 128 / 2 ^ 127 + 2 * (T / 2 ^ 128) := by
  simp only [mulFold]; omega

theorem mulFold_modEq {T : Nat} (h : T < 2 ^ 254) : mulFold T ≡ T [MOD P127] := by
  rw [mulFold_eq h]
  simp only [P127, Nat.ModEq]; omega

theorem mulFold_eq_zero_iff {T : Nat} (h : T < 2 ^ 254) : mulFold T = 0 ↔ T = 0 := by
  rw [mulFold_eq h]; omega

theorem nr127_f127Mul (a b : List Limb) : NR127 (f127Mul a b) :=
  ⟨f127Mul_length a b, f127Mul_val a b ▸ mod2_lt (mulFold_lt _)⟩

theorem f127Mul_modEq {a b : List Limb} (ha : NR127 a) (hb : NR127 b) :
    val (f127Mul a b) ≡ val a * val b [MOD P127] := by
  rw [f127Mul_val]
  exact (mod2_modEq _).trans (mulFold_modEq (ha.mul_lt hb))

theorem f127Mul_closedForm {a b : List Limb} (ha : NR127 a) (hb : NR127 b) :
    val (f127Mul a b) = if val a = 0 ∨ val b = 0 then 0 else (val a * val b - 1) % P127 + 1 := by
  have hzero : val (f127Mul a b) = 0 ↔ val a * val b = 0 := by
    rw [f127Mul_val, mod2_eq_zero_iff, mulFold_eq_zero_iff (ha.mul_lt hb)]
  rw [eq_closedForm (nr127_f127Mul a b).2 (f127Mul_modEq ha hb) hzero]
  simp only [Nat.mul_eq_zero]

/-- Settles O34: the folds of `V`, whose class and zero are the product's on `NR127`. -/
theorem f127MulAndSqrResult : Obligations.F127MulAndSqrResult := by
  unfold Obligations.F127MulAndSqrResult
  refine ⟨fun a b ha hb => ?_, fun a ha => ?_⟩
  · have hw : (Instr.f127Mul a b).wellFormed = true := by simp [Instr.wellFormed, ha, hb]
    exact ⟨decode_words .f127Mul false hw rfl rfl, decode_words_flag_not_taken .f127Mul rfl rfl _,
      fun s => ⟨_, exec_eq_respond hw nofun s, f127Mul_length a b, (nr127_f127Mul a b).2,
        (f127Mul_val a b).trans (mod2_eq (mulFold_lt _)), fun hva hvb =>
          ⟨f127Mul_closedForm ⟨ha, hva⟩ ⟨hb, hvb⟩, f127Mul_modEq ⟨ha, hva⟩ ⟨hb, hvb⟩⟩⟩⟩
  · have hsqr : (Instr.f127Sqr a).wellFormed = true := by simp [Instr.wellFormed, ha]
    have hmul : (Instr.f127Mul a a).wellFormed = true := by simp [Instr.wellFormed, ha]
    exact ⟨decode_words .f127Sqr false hsqr rfl rfl, decode_words_flag_not_taken .f127Sqr rfl rfl _,
      fun s => (exec_eq_respond hsqr nofun s).trans (exec_eq_respond hmul nofun s).symm⟩

/-! ### Selection and the canonical form (R77, R78) -/

theorem f127Canon_val_of_lazy {a : List Limb} (h : LAZY127 a) : val (f127Canon a) = val a % P127 := by
  obtain ⟨hlen, hlt⟩ := h
  rw [f127Canon_val hlen]
  split
  · next hc => exact (Nat.mod_eq_of_lt hc).symm
  · next hc =>
    have hge := Nat.le_of_not_lt hc
    rw [Nat.mod_eq_sub_mod hge, Nat.mod_eq_of_lt (by omega)]

theorem can127_f127Canon {a : List Limb} (h : LAZY127 a) : CAN127 (f127Canon a) :=
  ⟨f127Canon_length h.1, f127Canon_val_of_lazy h ▸ Nat.mod_lt _ (by decide)⟩

/-- Settles O35: the mask selects a whole operand, and one subtraction is enough below `2p`. -/
theorem f127SelectAndCanon : Obligations.F127SelectAndCanon := by
  unfold Obligations.F127SelectAndCanon
  refine ⟨fun f a b ha hb => ?_, fun a ha => ?_⟩
  · have hw : (Instr.f127Csel f a b).wellFormed = true := by simp [Instr.wellFormed, ha, hb]
    exact ⟨decode_words .f127Csel f hw rfl (by cases f <;> rfl),
      fun s => selN_eq f (ha.trans hb.symm) ▸ exec_eq_respond hw nofun s⟩
  · have hw : (Instr.f127Canon a).wellFormed = true := by simp [Instr.wellFormed, ha]
    exact ⟨decode_words .f127Canon false hw rfl rfl, decode_words_flag_not_taken .f127Canon rfl rfl _,
      fun s => ⟨_, exec_eq_respond hw nofun s, f127Canon_length ha, f127Canon_val ha,
        fun hlt => ⟨(can127_f127Canon ⟨ha, hlt⟩).2, f127Canon_val_of_lazy ⟨ha, hlt⟩⟩⟩⟩

/-! ### The invariant range (R83) -/

theorem f127Neg_add_self {a : List Limb} (ha : NR127 a) : val (f127Neg a) + val a = P127 := by
  rw [f127Neg_val_of_lt ha.1 ha.2, Nat.sub_add_cancel ha.le_P127]

theorem selN_eq_or (f : Bool) {a b : List Limb} (h : a.length = b.length) : selN f a b = a ∨ selN f a b = b := by
  cases f
  · exact .inr (selN_false h)
  · exact .inl (selN_true h)

/-- Settles O36: every result is two folds of a 128-bit value, and congruent to the exact one. -/
theorem f127RangeClosure : Obligations.F127RangeClosure := by
  unfold Obligations.F127RangeClosure
  intro a b ha hb
  exact ⟨nr127_f127Add a b, nr127_f127Sub a hb.1, nr127_f127Neg ha.1, nr127_f127Mul a b, nr127_f127Mul a a,
    can127_f127Canon ha.lazy, fun f => selN_eq_or f (ha.1.trans hb.1.symm), f127Add_modEq (ha.add_lt hb),
    f127Sub_modEq ha hb, by rw [f127Neg_add_self ha, Nat.mod_self], f127Mul_modEq ha hb, f127Mul_modEq ha ha⟩

/-! ### The field laws (R84) -/

/-- Values of one class have one canonical form: an equation of R84 is a congruence of values. -/
theorem f127Canon_eq_of_modEq {a b : List Limb} (ha : NR127 a) (hb : NR127 b) (h : val a ≡ val b [MOD P127]) :
    f127Canon a = f127Canon b := by
  refine eq_of_val_eq ((f127Canon_length ha.1).trans (f127Canon_length hb.1).symm) ?_
  rw [f127Canon_val_of_lazy ha.lazy, f127Canon_val_of_lazy hb.lazy]
  exact h

theorem f127Add_f127Neg_self {a : List Limb} (ha : NR127 a) : f127Add a (f127Neg a) = vec 2 P127 := by
  rw [f127Add, Nat.add_comm, f127Neg_add_self ha, Nat.mod_eq_of_lt (by decide), mod2_of_lt (by decide)]

theorem f127Canon_P127 : f127Canon (vec 2 P127) = vec 2 0 := by
  refine eq_of_val_eq (f127Canon_length (vec_length 2 P127)) ?_
  rw [f127Canon_val (vec_length 2 P127), val_P127, if_neg (lt_irrefl _), Nat.sub_self, val_vec2 (Nat.two_pow_pos 128)]

theorem f127Mul_f127Add_modEq {a b c : List Limb} (ha : NR127 a) (hb : NR127 b) (hc : NR127 c) :
    val (f127Mul a (f127Add b c)) ≡ val (f127Add (f127Mul a b) (f127Mul a c)) [MOD P127] := by
  have hleft : val (f127Mul a (f127Add b c)) ≡ val a * (val b + val c) [MOD P127] :=
    (f127Mul_modEq ha (nr127_f127Add b c)).trans ((f127Add_modEq (hb.add_lt hc)).mul_left _)
  have hright : val (f127Add (f127Mul a b) (f127Mul a c)) ≡ val a * val b + val a * val c [MOD P127] :=
    (f127Add_modEq ((nr127_f127Mul a b).add_lt (nr127_f127Mul a c))).trans
      ((f127Mul_modEq ha hb).add (f127Mul_modEq ha hc))
  rw [Nat.mul_add] at hleft
  exact hleft.trans hright.symm

theorem f127Add_assoc_modEq {a b c : List Limb} (ha : NR127 a) (hb : NR127 b) (hc : NR127 c) :
    val (f127Add (f127Add a b) c) ≡ val (f127Add a (f127Add b c)) [MOD P127] := by
  have hleft : val (f127Add (f127Add a b) c) ≡ val a + val b + val c [MOD P127] :=
    (f127Add_modEq ((nr127_f127Add a b).add_lt hc)).trans ((f127Add_modEq (ha.add_lt hb)).add_right _)
  have hright : val (f127Add a (f127Add b c)) ≡ val a + (val b + val c) [MOD P127] :=
    (f127Add_modEq (ha.add_lt (nr127_f127Add b c))).trans ((f127Add_modEq (hb.add_lt hc)).add_left _)
  rw [Nat.add_assoc] at hleft
  exact hleft.trans hright.symm

/-- The closed form returns a value of `[1, p]`, and 0, as it is. -/
theorem f127Mul_one {a : List Limb} (ha : NR127 a) : f127Mul a (vec 2 1) = a := by
  have hone : val (vec 2 1) = 1 := val_vec2 (by decide)
  have hclosed := f127Mul_closedForm ha ⟨vec_length 2 1, hone ▸ by decide⟩
  rw [hone, Nat.mul_one] at hclosed
  refine eq_of_val_eq ((f127Mul_length _ _).trans ha.1.symm) (hclosed.trans ?_)
  simpa using (eq_closedForm ha.2 rfl Iff.rfl).symm

/-- Settles O37: the bit-for-bit laws are the model's own, the others congruences taken to the canonical form. -/
theorem f127FieldLaws : Obligations.F127FieldLaws := by
  unfold Obligations.F127FieldLaws
  intro a b c ha hb hc
  exact ⟨f127Add_comm a b, f127Mul_comm a b, rfl, f127Add_f127Neg_self ha, f127Canon_P127,
    f127Canon_eq_of_modEq (nr127_f127Mul _ _) (nr127_f127Add _ _) (f127Mul_f127Add_modEq ha hb hc),
    f127Canon_eq_of_modEq (nr127_f127Add _ _) (nr127_f127Add _ _) (f127Add_assoc_modEq ha hb hc), f127Mul_one ha⟩

end Sys2Proof.Machine
end

section
/-! PROOFS. The family 42_f384.md: the F384 commands. Newton's iteration finds the Montgomery constant of any odd
modulus; with it the reduction divides exactly by `2^384`, and its bound lets one conditional subtraction make the
result canonical. From that the value of every operation, the canonical range, and the Montgomery form. -/

namespace Sys2Proof.Machine

-- The rules speak of values up to `2^768`, and the elaborator leaves exponents above 256 alone unless told.
set_option exponentiation.threshold 800

/-! ### The modulus (R85) -/

theorem P384_lt : P384 < 2 ^ 384 := P384_facts.2.2

theorem P384_pos : 0 < P384 := P384_prime.pos

/-- Every 6-limb value is below twice the modulus. -/
theorem two_pow_lt_two_mul_P384 : 2 ^ 384 < 2 * P384 := by
  have hlower := P384_facts.2.1
  omega

theorem P384_odd : Odd P384 := Nat.odd_iff.mpr P384_facts.1

theorem P384_coprime : Nat.Coprime P384 (2 ^ 384) := (Nat.coprime_two_right.mpr P384_odd).pow_right 384

/-! ### The Montgomery constant (R85) -/

theorem mod_eq_zero_of_cast {n : Nat} (h : (n : ZMod (2 ^ 384)) = 0) : n % 2 ^ 384 = 0 :=
  Nat.mod_eq_zero_of_dvd ((ZMod.natCast_eq_zero_iff n (2 ^ 384)).mp h)

theorem newtonStep_cast (p x : Nat) : (newtonStep p x : ZMod (2 ^ 384)) = x * (2 - p * x) := by
  have hle : p * x % 2 ^ 384 ≤ 2 ^ 384 := (Nat.mod_lt _ (Nat.two_pow_pos 384)).le
  rw [newtonStep, ZMod.natCast_mod, Nat.cast_mul, Nat.cast_add, Nat.cast_sub hle, ZMod.natCast_self, ZMod.natCast_mod,
    Nat.cast_mul]
  push_cast
  ring

/-- A step squares the error of the inverse. -/
theorem newtonStep_error (p x : Nat) : (1 - p * newtonStep p x : ZMod (2 ^ 384)) = (1 - p * x) ^ 2 := by
  rw [newtonStep_cast]; ring

theorem newtonIter_error (p k x : Nat) :
    (1 - p * newtonIter p k x : ZMod (2 ^ 384)) = (1 - p * x) ^ 2 ^ k := by
  induction k generalizing x with
  | zero => simp [newtonIter]
  | succ k ih => rw [newtonIter, ih, newtonStep_error, ← pow_mul, ← pow_succ']

/-- The error of 1 is `1 - p`: for an odd modulus it is even, and nine squarings make it a multiple of `2^512`. -/
theorem mul_newtonIter_eq_one {p : Nat} (hp : Odd p) : (p * newtonIter p 9 1 : ZMod (2 ^ 384)) = 1 := by
  obtain ⟨c, rfl⟩ := hp
  have hzero : (2 : ZMod (2 ^ 384)) ^ 384 = 0 := mod_cast ZMod.natCast_self (2 ^ 384)
  have herr := newtonIter_error (2 * c + 1) 9 1
  have hfirst : (1 - (2 * c + 1 : Nat) * (1 : Nat) : ZMod (2 ^ 384)) = 2 * -c := by push_cast; ring
  have hpow : (2 : ZMod (2 ^ 384)) ^ 2 ^ 9 = 0 := pow_eq_zero_of_le (by decide) hzero
  rw [hfirst, mul_pow, hpow, zero_mul] at herr
  exact (sub_eq_zero.mp herr).symm

theorem newtonIter_lt (p k : Nat) {x : Nat} (h : x < 2 ^ 384) : newtonIter p k x < 2 ^ 384 := by
  induction k generalizing x with
  | zero => exact h
  | succ k ih => exact ih (Nat.mod_lt _ (Nat.two_pow_pos 384))

theorem nprime384_cast (p : Nat) : (nprime384 p : ZMod (2 ^ 384)) = -newtonIter p 9 1 := by
  have hle : newtonIter p 9 1 ≤ 2 ^ 384 := (newtonIter_lt p 9 (Nat.one_lt_two_pow (by decide))).le
  rw [nprime384, ZMod.natCast_mod, Nat.cast_sub hle, ZMod.natCast_self, zero_sub]

theorem nprime384_lt (p : Nat) : nprime384 p < 2 ^ 384 := Nat.mod_lt _ (Nat.two_pow_pos 384)

theorem mul_nprime384_cast {p : Nat} (hp : Odd p) : (p * nprime384 p : ZMod (2 ^ 384)) = -1 := by
  rw [nprime384_cast, mul_neg, mul_newtonIter_eq_one hp]

/-- The modulus is invertible, so that one multiplier at most clears the low half of `T`. -/
theorem multiplier_unique {T m n : Nat} (hm : m < 2 ^ 384) (hn : n < 2 ^ 384) (hTm : (T + m * P384) % 2 ^ 384 = 0)
    (hTn : (T + n * P384) % 2 ^ 384 = 0) : m = n := by
  have hmul : m * P384 ≡ n * P384 [MOD 2 ^ 384] := Nat.ModEq.add_left_cancel' T (hTm.trans hTn.symm)
  exact (Nat.ModEq.cancel_right_of_coprime P384_coprime.symm hmul).eq_of_lt_of_lt hm hn

theorem P384_mul_nprime384 : (P384 * nprime384 P384 + 1) % 2 ^ 384 = 0 := by
  refine mod_eq_zero_of_cast ?_
  push_cast
  rw [mul_nprime384_cast P384_odd, neg_add_cancel]

/-- The low limb of an inverse is the inverse modulo one limb. -/
theorem P384_mul_nprime384_limb : (P384 * (nprime384 P384 % 2 ^ 64) + 1) % 2 ^ 64 = 0 := by
  have hdvd : 2 ^ 64 ∣ P384 * nprime384 P384 + 1 :=
    (pow_dvd_pow 2 (by decide)).trans (Nat.dvd_of_mod_eq_zero P384_mul_nprime384)
  have hmod : P384 * (nprime384 P384 % 2 ^ 64) + 1 ≡ P384 * nprime384 P384 + 1 [MOD 2 ^ 64] :=
    ((Nat.mod_modEq _ _).mul_left P384).add_right 1
  exact hmod.trans (Nat.modEq_zero_iff_dvd.mpr hdvd)

/-- Settles O38: Newton's iteration inverts the modulus, and an inverse is unique. -/
theorem montgomeryConstant : Obligations.MontgomeryConstant := by
  unfold Obligations.MontgomeryConstant
  refine ⟨⟨P384_mul_nprime384, nprime384_lt P384, fun n hn h => ?_, P384_mul_nprime384_limb⟩, by decide +kernel⟩
  have hinv := P384_mul_nprime384
  rw [Nat.add_comm, Nat.mul_comm] at h hinv
  exact multiplier_unique hn (nprime384_lt P384) h hinv

/-! ### Reduction (R86 to R88) -/

theorem redcM_lt (p T : Nat) : redcM p T < 2 ^ 384 := Nat.mod_lt _ (Nat.two_pow_pos 384)

/-- The multiplier is `-T/p` modulo `2^384`. -/
theorem add_redcM_mul_mod (T : Nat) : (T + redcM P384 T * P384) % 2 ^ 384 = 0 := by
  refine mod_eq_zero_of_cast ?_
  simp only [redcM, Nat.cast_add, Nat.cast_mul, ZMod.natCast_mod]
  rw [mul_assoc, mul_comm (nprime384 P384 : ZMod (2 ^ 384)), mul_nprime384_cast P384_odd]
  ring

/-- The division of `REDC` is exact. -/
theorem redc_mul_two_pow (T : Nat) : redc P384 T * 2 ^ 384 = T + redcM P384 T * P384 :=
  Nat.div_mul_cancel (Nat.dvd_of_mod_eq_zero (add_redcM_mul_mod T))

theorem redc_mul_modEq (T : Nat) : redc P384 T * 2 ^ 384 ≡ T [MOD P384] := by
  rw [redc_mul_two_pow]
  exact Nat.add_mul_mod_self_right T _ _

theorem redc_lt_of_lt_mul {T c : Nat} (h : T < c * 2 ^ 384) : redc P384 T < c + P384 := by
  refine Nat.lt_of_mul_lt_mul_right (a := 2 ^ 384) ?_
  calc redc P384 T * 2 ^ 384
    _ = T + redcM P384 T * P384 := redc_mul_two_pow T
    _ < c * 2 ^ 384 + 2 ^ 384 * P384 := Nat.add_lt_add_of_lt_of_le h (Nat.mul_le_mul_right _ (redcM_lt _ _).le)
    _ = (c + P384) * 2 ^ 384 := by ring

theorem redc_lt {T : Nat} (h : T < 2 ^ 768) : redc P384 T < 2 ^ 384 + P384 :=
  redc_lt_of_lt_mul (h.trans_eq (Nat.pow_add 2 384 384))

theorem redc_lt_two_mul {T : Nat} (h : T < P384 * 2 ^ 384) : redc P384 T < 2 * P384 :=
  (redc_lt_of_lt_mul h).trans_eq (Nat.two_mul P384).symm

/-- Settles O39: the multiplier makes the sum a multiple of `2^384`, and adds a multiple of `p` to `T`. -/
theorem montgomeryReduction : Obligations.MontgomeryReduction := by
  unfold Obligations.MontgomeryReduction
  intro T hT
  have hsum : T + redcM P384 T * P384 < 2 ^ 768 + 2 ^ 384 * P384 :=
    Nat.add_lt_add_of_lt_of_le hT (Nat.mul_le_mul_right _ (redcM_lt P384 T).le)
  have hbits : redc P384 T < 2 ^ 385 := by
    have hlt := redc_lt hT
    have hp := P384_lt
    omega
  exact ⟨rfl, redcM_lt P384 T, hsum, add_redcM_mul_mod T, rfl, hbits, redc_mul_modEq T⟩

/-- Settles O40: `p` is invertible modulo `2^384`, so that the low half of the sum fixes the multiplier. -/
theorem reductionMultiplierIsUnique : Obligations.ReductionMultiplierIsUnique := by
  unfold Obligations.ReductionMultiplierIsUnique
  intro T m _ hm h
  obtain rfl := multiplier_unique hm (redcM_lt P384 T) h (add_redcM_mul_mod T)
  exact ⟨rfl, rfl⟩

/-! ### The conditional subtraction (R87, R88) -/

/-- Below `2^384 + p` the subtraction leaves six limbs, so that nothing is cut off. -/
theorem gfpCarry_eq {t : Nat} (h : t < 2 ^ 384 + P384) : gfpCarry P384 t = if t < P384 then t else t - P384 := by
  have hp := P384_lt
  exact Nat.mod_eq_of_lt (by split <;> omega)

theorem gfpCarry_modEq {t : Nat} (h : t < 2 ^ 384 + P384) : gfpCarry P384 t ≡ t [MOD P384] := by
  rw [gfpCarry_eq h]
  split
  · rfl
  · next hge => exact (Nat.mod_eq_sub_mod (Nat.le_of_not_lt hge)).symm

theorem gfpCarry_lt_P384 {t : Nat} (h : t < 2 * P384) : gfpCarry P384 t < P384 := by
  have hp := P384_lt
  rw [gfpCarry_eq (by omega)]
  split <;> omega

/-- One subtraction reduces a value below `2p`. -/
theorem gfpCarry_eq_mod {t : Nat} (h : t < 2 * P384) : gfpCarry P384 t = t % P384 := by
  have hp := P384_lt
  have hmod := gfpCarry_modEq (t := t) (by omega)
  exact (Nat.mod_eq_of_lt (gfpCarry_lt_P384 h)).symm.trans hmod

theorem gfpCarry_redc_mul_modEq {T : Nat} (h : T < 2 ^ 768) :
    gfpCarry P384 (redc P384 T) * 2 ^ 384 ≡ T [MOD P384] :=
  ((gfpCarry_modEq (redc_lt h)).mul_right _).trans (redc_mul_modEq T)

theorem P384_mul_lt : P384 * 2 ^ 384 < 2 ^ 768 :=
  (Nat.mul_lt_mul_of_pos_right P384_lt (Nat.two_pow_pos 384)).trans_eq (Nat.pow_add 2 384 384).symm

theorem mul_lt_P384_mul {a b : Nat} (ha : a < P384) (hb : b < 2 ^ 384) : a * b < P384 * 2 ^ 384 :=
  Nat.mul_lt_mul'' ha hb

/-- Settles O41: the sum is below `2p * 2^384`, or `(2^384 + p) * 2^384`, before its exact division. -/
theorem reductionBound : Obligations.ReductionBound := by
  unfold Obligations.ReductionBound
  refine ⟨fun T hT => ?_, fun a b => mul_lt_P384_mul, fun T => redc_lt⟩
  exact ⟨redc_lt_two_mul hT, gfpCarry_lt_P384 (redc_lt_two_mul hT), gfpCarry_redc_mul_modEq (hT.trans P384_mul_lt)⟩

/-! ### Canonical values (R11, R100) -/

theorem val_lt_two_pow_384 {a : List Limb} (h : a.length = 6) : val a < 2 ^ 384 := val_lt_of_length h

theorem val_mul_lt {a b : List Limb} (ha : a.length = 6) (hb : b.length = 6) : val a * val b < 2 ^ 768 :=
  (Nat.mul_lt_mul'' (val_lt_two_pow_384 ha) (val_lt_two_pow_384 hb)).trans_eq (Nat.pow_add 2 384 384).symm

theorem CAN384.mul_lt {a b : List Limb} (ha : CAN384 P384 a) (hb : CAN384 P384 b) :
    val a * val b < P384 * 2 ^ 384 := mul_lt_P384_mul ha.2 (val_lt_two_pow_384 hb.1)

theorem CAN384.add_lt {a b : List Limb} (ha : CAN384 P384 a) (hb : CAN384 P384 b) : val a + val b < 2 * P384 := by
  have hva := ha.2
  have hvb := hb.2
  omega

/-- A canonical value is the residue of its class. -/
theorem CAN384.val_eq {a : List Limb} {v : Nat} (ha : CAN384 P384 a) (h : val a ≡ v [MOD P384]) :
    val a = v % P384 := (Nat.mod_eq_of_lt ha.2).symm.trans h

theorem CAN384.eq_vec {a : List Limb} {v : Nat} (ha : CAN384 P384 a) (h : val a ≡ v [MOD P384]) :
    a = vec 6 (v % P384) := by
  rw [← ha.val_eq h, vec_val ha.1]

theorem val_vec6_mod_P384 (v : Nat) : val (vec 6 (v % P384)) = v % P384 :=
  val_vec6 ((Nat.mod_lt v P384_pos).trans P384_lt)

theorem can384_vec (v : Nat) : CAN384 P384 (vec 6 (v % P384)) :=
  ⟨vec_length 6 _, (val_vec6_mod_P384 v).trans_lt (Nat.mod_lt v P384_pos)⟩

/-! ### Multiplication and squaring (R89, R90) -/

theorem f384Mul_comm (p : Nat) (a b : List Limb) : f384Mul p a b = f384Mul p b a := by
  simp only [f384Mul, Nat.mul_comm]

theorem f384Mul_modEq {a b : List Limb} (ha : a.length = 6) (hb : b.length = 6) :
    val (f384Mul P384 a b) * 2 ^ 384 ≡ val a * val b [MOD P384] := by
  rw [f384Mul_val]
  exact gfpCarry_redc_mul_modEq (val_mul_lt ha hb)

theorem can384_f384Mul {a b : List Limb} (h : val a * val b < P384 * 2 ^ 384) : CAN384 P384 (f384Mul P384 a b) :=
  ⟨f384Mul_length _ _ _, f384Mul_val P384 a b ▸ gfpCarry_lt_P384 (redc_lt_two_mul h)⟩

/-- Settles O42: the reduction of the product, and its bound on the working domain. -/
theorem f384MulAndSqrResult : Obligations.F384MulAndSqrResult := by
  unfold Obligations.F384MulAndSqrResult
  refine ⟨fun a b ha hb => ?_, fun a ha => ?_⟩
  · have hab : (Instr.f384Mul a b).wellFormed = true := by simp [Instr.wellFormed, ha, hb]
    have hba : (Instr.f384Mul b a).wellFormed = true := by simp [Instr.wellFormed, ha, hb]
    exact ⟨decode_words .f384Mul false hab rfl rfl, decode_words_flag_not_taken .f384Mul rfl rfl _,
      fun s => ⟨f384Mul P384 a b, exec_eq_respond hab nofun s, f384Mul_comm P384 b a ▸ exec_eq_respond hba nofun s,
        f384Mul_length P384 a b, f384Mul_val P384 a b, f384Mul_modEq ha hb, fun h => (can384_f384Mul h).2⟩⟩
  · have hsqr : (Instr.f384Sqr a).wellFormed = true := by simp [Instr.wellFormed, ha]
    have hmul : (Instr.f384Mul a a).wellFormed = true := by simp [Instr.wellFormed, ha]
    exact ⟨decode_words .f384Sqr false hsqr rfl rfl, decode_words_flag_not_taken .f384Sqr rfl rfl _,
      fun s => (exec_eq_respond hsqr nofun s).trans (exec_eq_respond hmul nofun s).symm⟩

/-! ### Addition, subtraction and negation (R91 to R93, R98) -/

theorem f384Add_modEq {a b : List Limb} (h : val a + val b < 2 ^ 384 + P384) :
    val (f384Add P384 a b) ≡ val a + val b [MOD P384] := by
  rw [f384Add_val]
  exact gfpCarry_modEq h

theorem can384_f384Add {a b : List Limb} (ha : CAN384 P384 a) (hb : CAN384 P384 b) :
    CAN384 P384 (f384Add P384 a b) :=
  ⟨f384Add_length _ _ _, f384Add_val P384 a b ▸ gfpCarry_lt_P384 (ha.add_lt hb)⟩

theorem f384Add_val_of_can {a b : List Limb} (ha : CAN384 P384 a) (hb : CAN384 P384 b) :
    val (f384Add P384 a b) = (val a + val b) % P384 :=
  (f384Add_val P384 a b).trans (gfpCarry_eq_mod (ha.add_lt hb))

/-- Where `p` covers what `b` exceeds `a` by, adding `p` back makes up for the borrow. -/
theorem f384Sub_val_of_le {a b : List Limb} (ha : a.length = 6) (hb : b.length = 6) (h : val b ≤ val a + P384) :
    val (f384Sub P384 a b) = if val a < val b then val a + P384 - val b else val a - val b := by
  have hp := P384_lt
  rw [f384Sub_val ha hb]
  split <;> omega

theorem f384Sub_modEq {a b : List Limb} (ha : a.length = 6) (hb : b.length = 6) (h : val b ≤ val a + P384) :
    val (f384Sub P384 a b) + val b ≡ val a [MOD P384] := by
  rw [f384Sub_val_of_le ha hb h]
  split
  · rw [Nat.sub_add_cancel h]
    exact Nat.add_modEq_right
  · next hge => rw [Nat.sub_add_cancel (Nat.le_of_not_lt hge)]

theorem CAN384.le_add {b : List Limb} (hb : CAN384 P384 b) (n : Nat) : val b ≤ n + P384 :=
  hb.2.le.trans (Nat.le_add_left P384 n)

theorem can384_f384Sub {a b : List Limb} (ha : CAN384 P384 a) (hb : CAN384 P384 b) :
    CAN384 P384 (f384Sub P384 a b) := by
  refine ⟨f384Sub_length _ _ _, ?_⟩
  rw [f384Sub_val_of_le ha.1 hb.1 (hb.le_add _)]
  have hlt := ha.2
  split <;> omega

theorem f384Sub_val_of_can {a b : List Limb} (ha : CAN384 P384 a) (hb : CAN384 P384 b) :
    val (f384Sub P384 a b) = (val a + P384 - val b) % P384 := by
  have hle := hb.le_add (val a)
  refine (can384_f384Sub ha hb).val_eq (Nat.ModEq.add_right_cancel' (val b) ?_)
  rw [Nat.sub_add_cancel hle]
  exact (f384Sub_modEq ha.1 hb.1 hle).trans Nat.add_modEq_right.symm

theorem val_vec6_zero : val (vec 6 0) = 0 := val_vec6 (Nat.two_pow_pos 384)

theorem can384_zero : CAN384 P384 (vec 6 0) := ⟨vec_length 6 0, val_vec6_zero ▸ P384_pos⟩

theorem can384_f384Neg {a : List Limb} (ha : CAN384 P384 a) : CAN384 P384 (f384Neg P384 a) :=
  can384_f384Sub can384_zero ha

theorem f384Neg_val_of_le {a : List Limb} (ha : a.length = 6) (h : val a ≤ P384) :
    val (f384Neg P384 a) = if 0 < val a then P384 - val a else 0 := by
  rw [f384Neg, f384Sub_val_of_le (vec_length 6 0) ha (h.trans (Nat.le_add_left _ _)), val_vec6_zero, Nat.zero_add,
    Nat.zero_sub]

/-- Settles O43: one conditional correction by `p`, exact as far as six limbs hold what it leaves. -/
theorem f384AddSubNegResult : Obligations.F384AddSubNegResult := by
  unfold Obligations.F384AddSubNegResult
  refine ⟨fun a b ha hb => ?_, fun a ha => ?_⟩
  · have hadd : (Instr.f384Add a b).wellFormed = true := by simp [Instr.wellFormed, ha, hb]
    have hsub : (Instr.f384Sub a b).wellFormed = true := by simp [Instr.wellFormed, ha, hb]
    refine ⟨decode_words .f384Add false hadd rfl rfl, decode_words_flag_not_taken .f384Add rfl rfl _,
      decode_words .f384Sub false hsub rfl rfl, decode_words_flag_not_taken .f384Sub rfl rfl _, fun s => ⟨?_, ?_⟩⟩
    · exact ⟨_, exec_eq_respond hadd nofun s, f384Add_length P384 a b, f384Add_val P384 a b, f384Add_modEq,
        fun hva hvb => f384Add_val_of_can ⟨ha, hva⟩ ⟨hb, hvb⟩⟩
    · exact ⟨_, exec_eq_respond hsub nofun s, f384Sub_length P384 a b, f384Sub_val ha hb, f384Sub_modEq ha hb,
        fun hva hvb => f384Sub_val_of_can ⟨ha, hva⟩ ⟨hb, hvb⟩⟩
  · have hneg : (Instr.f384Neg a).wellFormed = true := by simp [Instr.wellFormed, ha]
    have hsub : (Instr.f384Sub (vec 6 0) a).wellFormed = true := by simp [Instr.wellFormed, ha]
    refine ⟨decode_words .f384Neg false hneg rfl rfl, decode_words_flag_not_taken .f384Neg rfl rfl _,
      fun s => ⟨_, exec_eq_respond hneg nofun s, f384Neg_length P384 a, exec_eq_respond hsub nofun s,
        fun h => ?_, fun hpos hlt => ?_⟩⟩
    · exact (f384Neg_val_of_le ha (h.trans_le P384_pos.le)).trans (if_neg h.not_gt)
    · exact (f384Neg_val_of_le ha hlt.le).trans (if_pos hpos)

/-! ### Selection and the canonical form (R94, R95) -/

theorem f384Canon_val_eq {a : List Limb} (ha : a.length = 6) : val (f384Canon P384 a) = val a % P384 :=
  (f384Canon_val P384 a).trans (gfpCarry_eq_mod ((val_lt_two_pow_384 ha).trans two_pow_lt_two_mul_P384))

theorem can384_f384Canon {a : List Limb} (ha : a.length = 6) : CAN384 P384 (f384Canon P384 a) :=
  ⟨f384Canon_length P384 a, f384Canon_val_eq ha ▸ Nat.mod_lt _ P384_pos⟩

theorem f384Canon_of_can {a : List Limb} (ha : CAN384 P384 a) : f384Canon P384 a = a :=
  eq_of_val_eq ((f384Canon_length P384 a).trans ha.1.symm)
    ((f384Canon_val_eq ha.1).trans (Nat.mod_eq_of_lt ha.2))

/-- Settles O44: the mask selects a whole operand, and every 6-limb value is below `2p`. -/
theorem f384SelectAndCanon : Obligations.F384SelectAndCanon := by
  unfold Obligations.F384SelectAndCanon
  refine ⟨fun f a b ha hb => ?_, fun a ha => ?_⟩
  · have hw : (Instr.f384Csel f a b).wellFormed = true := by simp [Instr.wellFormed, ha, hb]
    exact ⟨decode_words .f384Csel f hw rfl (by cases f <;> rfl),
      fun s => selN_eq f (ha.trans hb.symm) ▸ exec_eq_respond hw nofun s⟩
  · have hw : (Instr.f384Canon a).wellFormed = true := by simp [Instr.wellFormed, ha]
    have hr := can384_f384Canon ha
    have hwr : (Instr.f384Canon (f384Canon P384 a)).wellFormed = true := by simp [Instr.wellFormed]
    have hsame : resultsOf (.f384Canon (f384Canon P384 a)) = f384Canon P384 a := f384Canon_of_can hr
    have hagain := exec_eq_respond hwr nofun
    rw [hsame] at hagain
    exact ⟨decode_words .f384Canon false hw rfl rfl, decode_words_flag_not_taken .f384Canon rfl rfl _,
      fun s => ⟨_, exec_eq_respond hw nofun s, hr.1, f384Canon_val_eq ha, hagain s,
        fun hlt => f384Canon_of_can ⟨ha, hlt⟩⟩⟩

/-! ### The invariant range (R100) -/

/-- Settles O46: every result is one conditional correction of a value below `2p`. -/
theorem f384RangeClosure : Obligations.F384RangeClosure := by
  unfold Obligations.F384RangeClosure
  intro a b ha hb
  exact ⟨can384_f384Add ha hb, can384_f384Sub ha hb, can384_f384Neg ha, can384_f384Mul (ha.mul_lt hb),
    can384_f384Mul (ha.mul_lt ha), can384_f384Canon ha.1, fun f => selN_eq_or f (ha.1.trans hb.1.symm)⟩

/-! ### Montgomery form (R96) -/

/-- `M(x)` of R96: the Montgomery form of `x`. -/
def montgomeryForm (x : Nat) : List Limb := vec 6 (x * 2 ^ 384 % P384)

theorem can384_montgomeryForm (x : Nat) : CAN384 P384 (montgomeryForm x) := can384_vec _

theorem montgomeryForm_modEq (x : Nat) : val (montgomeryForm x) ≡ x * 2 ^ 384 [MOD P384] := by
  rw [montgomeryForm, val_vec6_mod_P384]
  exact Nat.mod_modEq _ _

/-- `2^384` is invertible modulo `p`: a canonical product is the `v` whose multiple by `2^384` is the exact product. -/
theorem f384Mul_eq_vec {a b : List Limb} {v : Nat} (ha : CAN384 P384 a) (hb : CAN384 P384 b)
    (h : val a * val b ≡ v * 2 ^ 384 [MOD P384]) : f384Mul P384 a b = vec 6 (v % P384) := by
  have hmod := (f384Mul_modEq ha.1 hb.1).trans h
  exact (can384_f384Mul (ha.mul_lt hb)).eq_vec (Nat.ModEq.cancel_right_of_coprime P384_coprime hmod)

theorem f384Mul_montgomeryForm (x y : Nat) :
    f384Mul P384 (montgomeryForm x) (montgomeryForm y) = montgomeryForm (x * y) := by
  refine f384Mul_eq_vec (can384_montgomeryForm x) (can384_montgomeryForm y) ?_
  calc val (montgomeryForm x) * val (montgomeryForm y)
    _ ≡ x * 2 ^ 384 * (y * 2 ^ 384) [MOD P384] := (montgomeryForm_modEq x).mul (montgomeryForm_modEq y)
    _ = x * y * 2 ^ 384 * 2 ^ 384 := by ring

theorem f384Mul_enter (x : Nat) :
    f384Mul P384 (vec 6 (x % P384)) (vec 6 (2 ^ 384 * 2 ^ 384 % P384)) = montgomeryForm x := by
  refine f384Mul_eq_vec (can384_vec x) (can384_vec _) ?_
  rw [val_vec6_mod_P384, val_vec6_mod_P384, Nat.mul_assoc]
  exact (Nat.mod_modEq _ _).mul (Nat.mod_modEq _ _)

theorem val_vec6_one : val (vec 6 1) = 1 := val_vec6 (Nat.one_lt_two_pow (by decide))

theorem f384Mul_leave (x : Nat) : f384Mul P384 (montgomeryForm x) (vec 6 1) = vec 6 (x % P384) := by
  refine f384Mul_eq_vec (can384_montgomeryForm x) ⟨vec_length 6 1, val_vec6_one ▸ P384_prime.one_lt⟩ ?_
  rw [val_vec6_one, Nat.mul_one]
  exact montgomeryForm_modEq x

theorem f384Add_montgomeryForm (x y : Nat) :
    f384Add P384 (montgomeryForm x) (montgomeryForm y) = montgomeryForm (x + y) := by
  have hx := can384_montgomeryForm x
  have hy := can384_montgomeryForm y
  refine (can384_f384Add hx hy).eq_vec ?_
  rw [f384Add_val_of_can hx hy, Nat.add_mul]
  exact (Nat.mod_modEq _ _).trans ((montgomeryForm_modEq x).add (montgomeryForm_modEq y))

theorem f384Sub_montgomeryForm (x y : Nat) :
    f384Sub P384 (montgomeryForm (x + y)) (montgomeryForm y) = montgomeryForm x := by
  have hxy := can384_montgomeryForm (x + y)
  have hy := can384_montgomeryForm y
  refine (can384_f384Sub hxy hy).eq_vec (Nat.ModEq.add_right_cancel (montgomeryForm_modEq y) ?_)
  rw [← Nat.add_mul]
  exact (f384Sub_modEq hxy.1 hy.1 (hy.le_add _)).trans (montgomeryForm_modEq (x + y))

theorem f384Add_f384Neg_self {a : List Limb} (ha : CAN384 P384 a) :
    f384Add P384 a (f384Neg P384 a) = vec 6 0 := by
  have hneg := can384_f384Neg ha
  have hzero : val (f384Neg P384 a) + val a ≡ 0 [MOD P384] :=
    val_vec6_zero ▸ f384Sub_modEq (vec_length 6 0) ha.1 (ha.le_add _)
  refine ((can384_f384Add ha hneg).eq_vec (v := 0) ?_).trans (by rw [Nat.zero_mod])
  rw [f384Add_val_of_can ha hneg, Nat.add_comm]
  exact (Nat.mod_modEq _ _).trans hzero

theorem montgomeryForm_zero : montgomeryForm 0 = vec 6 0 := by
  rw [montgomeryForm, Nat.zero_mul, Nat.zero_mod]

theorem selN_montgomeryForm (f : Bool) (x y : Nat) :
    selN f (montgomeryForm x) (montgomeryForm y) = montgomeryForm (if f then x else y) := by
  rw [selN_eq f ((can384_montgomeryForm x).1.trans (can384_montgomeryForm y).1.symm), apply_ite montgomeryForm]

/-- Settles O45: every result is canonical, and its class is that of the form it is compared with. -/
theorem montgomeryFormIsARingMap : Obligations.MontgomeryFormIsARingMap := by
  unfold Obligations.MontgomeryFormIsARingMap
  intro M x y
  have hx := can384_montgomeryForm x
  exact ⟨f384Mul_montgomeryForm x y, f384Mul_enter x, f384Mul_leave x, f384Add_montgomeryForm x y,
    f384Sub_montgomeryForm x y, (f384Add_f384Neg_self hx).trans montgomeryForm_zero.symm, f384Canon_of_can hx,
    fun f => selN_montgomeryForm f x y⟩

end Sys2Proof.Machine
end


section
/-! PROOFS. The family 43_fp2.md: the FP2 commands. On the working domain a value stands for an element `a0 + a1*i` of
the quadratic algebra over `ZMod P127` with `i^2 = -1` (R101); the field functions act on those elements as its ring
operations do, and values of one element are equal after `FP2.CANON`. -/

namespace Sys2Proof.Machine

open Config (P127)

/-! ### The residues of F127 results (R83) -/

theorem f127Add_cast {a b : List Limb} (ha : NR127 a) (hb : NR127 b) :
    (val (f127Add a b) : ZMod P127) = val a + val b := by
  exact_mod_cast (ZMod.natCast_eq_natCast_iff _ _ P127).mpr (f127Add_modEq (ha.add_lt hb))

theorem f127Sub_cast {a b : List Limb} (ha : NR127 a) (hb : NR127 b) :
    (val (f127Sub a b) : ZMod P127) = val a - val b := by
  refine eq_sub_of_add_eq ?_
  exact_mod_cast (ZMod.natCast_eq_natCast_iff _ _ P127).mpr (f127Sub_modEq ha hb)

theorem f127Mul_cast {a b : List Limb} (ha : NR127 a) (hb : NR127 b) :
    (val (f127Mul a b) : ZMod P127) = val a * val b := by
  exact_mod_cast (ZMod.natCast_eq_natCast_iff _ _ P127).mpr (f127Mul_modEq ha hb)

/-- On the working domain a canonical form is a residue. -/
theorem f127Canon_eq_iff_cast {a b : List Limb} (ha : NR127 a) (hb : NR127 b) :
    f127Canon a = f127Canon b ↔ (val a : ZMod P127) = val b := by
  rw [ZMod.natCast_eq_natCast_iff]
  refine ⟨fun h => ?_, f127Canon_eq_of_modEq ha hb⟩
  have hval := congrArg val h
  rwa [f127Canon_val_of_lazy ha.lazy, f127Canon_val_of_lazy hb.lazy] at hval

/-! ### The all-zero pattern as an F127 result (R72, R74, R75) -/

theorem f127Add_val_eq_zero_iff {a b : List Limb} (ha : NR127 a) (hb : NR127 b) :
    val (f127Add a b) = 0 ↔ val a = 0 ∧ val b = 0 := by
  rw [f127Add_val, Nat.mod_eq_of_lt (ha.add_lt hb), mod2_eq_zero_iff, Nat.add_eq_zero_iff]

theorem f127Sub_val_eq_zero_iff {a b : List Limb} (ha : NR127 a) (hb : NR127 b) :
    val (f127Sub a b) = 0 ↔ val a = 0 ∧ val b = P127 := by
  have hle := hb.le_P127
  rw [f127Sub_val ha hb, mod2_eq_zero_iff]
  omega

theorem f127Mul_val_eq_zero_iff {a b : List Limb} (ha : NR127 a) (hb : NR127 b) :
    val (f127Mul a b) = 0 ↔ val a = 0 ∨ val b = 0 := by
  rw [f127Mul_val, mod2_eq_zero_iff, mulFold_eq_zero_iff (ha.mul_lt hb), Nat.mul_eq_zero]

/-! ### The working domain (R101, R110) -/

theorem nrFp2_fp2Add (a b : Fp2) : NRFp2 (fp2Add a b) := ⟨nr127_f127Add _ _, nr127_f127Add _ _⟩

theorem nrFp2_fp2Sub (a : Fp2) {b : Fp2} (hb : NRFp2 b) : NRFp2 (fp2Sub a b) :=
  ⟨nr127_f127Sub _ hb.1.1, nr127_f127Sub _ hb.2.1⟩

theorem nrFp2_fp2Neg {a : Fp2} (ha : NRFp2 a) : NRFp2 (fp2Neg a) := ⟨nr127_f127Neg ha.1.1, nr127_f127Neg ha.2.1⟩

theorem nrFp2_fp2Mul (a b : Fp2) : NRFp2 (fp2Mul a b) :=
  ⟨nr127_f127Sub _ (f127Mul_length _ _), nr127_f127Add _ _⟩

theorem nrFp2_fp2Sqr (a : Fp2) : NRFp2 (fp2Sqr a) := ⟨nr127_f127Mul _ _, nr127_f127Add _ _⟩

theorem CAN127.nr127 {a : List Limb} (h : CAN127 a) : NR127 a := ⟨h.1, h.2.trans (by decide)⟩

theorem nrFp2_fp2Canon {a : Fp2} (ha : NRFp2 a) : NRFp2 (fp2Canon a) :=
  ⟨(can127_f127Canon ha.1.lazy).nr127, (can127_f127Canon ha.2.lazy).nr127⟩

/-! ### The element a value stands for (R101, R111) -/

/-- `a0 + a1*i`, with `i^2 = -1`. -/
def fp2Value (a : Fp2) : QuadraticAlgebra (ZMod P127) (-1) 0 := ⟨val a.a0, val a.a1⟩

theorem fp2Value_fp2Add {a b : Fp2} (ha : NRFp2 a) (hb : NRFp2 b) :
    fp2Value (fp2Add a b) = fp2Value a + fp2Value b :=
  QuadraticAlgebra.ext (f127Add_cast ha.1 hb.1) (f127Add_cast ha.2 hb.2)

theorem fp2Mul_a0_cast {a b : Fp2} (ha : NRFp2 a) (hb : NRFp2 b) :
    (val (fp2Mul a b).a0 : ZMod P127) = val a.a0 * val b.a0 - val a.a1 * val b.a1 := by
  rw [fp2Mul, f127Sub_cast (nr127_f127Mul _ _) (nr127_f127Mul _ _), f127Mul_cast ha.1 hb.1, f127Mul_cast ha.2 hb.2]

theorem fp2Mul_a1_cast {a b : Fp2} (ha : NRFp2 a) (hb : NRFp2 b) :
    (val (fp2Mul a b).a1 : ZMod P127) = val a.a0 * val b.a1 + val a.a1 * val b.a0 := by
  rw [fp2Mul, f127Add_cast (nr127_f127Mul _ _) (nr127_f127Mul _ _), f127Mul_cast ha.1 hb.2, f127Mul_cast ha.2 hb.1]

theorem fp2Value_fp2Mul {a b : Fp2} (ha : NRFp2 a) (hb : NRFp2 b) :
    fp2Value (fp2Mul a b) = fp2Value a * fp2Value b := by
  refine QuadraticAlgebra.ext ((fp2Mul_a0_cast ha hb).trans ?_) ((fp2Mul_a1_cast ha hb).trans ?_)
  · simp only [QuadraticAlgebra.re_mul, fp2Value]; ring
  · simp only [QuadraticAlgebra.im_mul, fp2Value]; ring

/-- The difference of squares (R107). -/
theorem fp2Sqr_a0_cast {a : Fp2} (ha : NRFp2 a) :
    (val (fp2Sqr a).a0 : ZMod P127) = val a.a0 * val a.a0 - val a.a1 * val a.a1 := by
  rw [fp2Sqr, f127Mul_cast (nr127_f127Add _ _) (nr127_f127Sub _ ha.2.1), f127Add_cast ha.1 ha.2, f127Sub_cast ha.1 ha.2]
  ring

theorem fp2Sqr_a1_cast {a : Fp2} (ha : NRFp2 a) :
    (val (fp2Sqr a).a1 : ZMod P127) = 2 * (val a.a0 * val a.a1) := by
  rw [fp2Sqr, f127Add_cast (nr127_f127Mul _ _) (nr127_f127Mul _ _), f127Mul_cast ha.1 ha.2, two_mul]

theorem fp2Value_fp2Sqr {a : Fp2} (ha : NRFp2 a) : fp2Value (fp2Sqr a) = fp2Value a * fp2Value a := by
  rw [← fp2Value_fp2Mul ha ha]
  refine QuadraticAlgebra.ext ((fp2Sqr_a0_cast ha).trans (fp2Mul_a0_cast ha ha).symm)
    ((fp2Sqr_a1_cast ha).trans ((fp2Mul_a1_cast ha ha).trans ?_).symm)
  ring

/-- A law of R111 is an equation of elements. -/
theorem fp2Eq_iff_value_eq {a b : Fp2} (ha : NRFp2 a) (hb : NRFp2 b) : Fp2Eq a b ↔ fp2Value a = fp2Value b := by
  simp only [Fp2Eq, fp2Canon, fp2Value, Fp2.mk.injEq, QuadraticAlgebra.mk.injEq, f127Canon_eq_iff_cast ha.1 hb.1,
    f127Canon_eq_iff_cast ha.2 hb.2]

/-! ### The componentwise commands (R102 to R104, R108, R109) -/

theorem fp2Csel_eq (f : Bool) {a b : Fp2} (ha : isFp2 a = true) (hb : isFp2 b = true) :
    fp2Csel f a b = if f then a else b := by
  obtain ⟨ha0, ha1⟩ := (isFp2_iff a).mp ha
  obtain ⟨hb0, hb1⟩ := (isFp2_iff b).mp hb
  rw [fp2Csel, selN_eq f (ha0.trans hb0.symm), selN_eq f (ha1.trans hb1.symm)]
  cases f <;> rfl

theorem fp2Words_fp2Csel (f : Bool) {a b : Fp2} (ha : isFp2 a = true) (hb : isFp2 b = true) :
    fp2Words (fp2Csel f a b) = if f then a.a0 ++ a.a1 else b.a0 ++ b.a1 := by
  rw [fp2Csel_eq f ha hb]
  exact apply_ite fp2Words _ a b

/-- Settles O47: every result is the words of a componentwise function, and the selected element passes whole. -/
theorem fp2ComponentwiseCommands : Obligations.Fp2ComponentwiseCommands := by
  unfold Obligations.Fp2ComponentwiseCommands
  refine ⟨fun a b ha hb => ?_, fun a ha => ?_⟩
  · have hadd : (Instr.fp2Add a b).wellFormed = true := by simp [Instr.wellFormed, ha, hb]
    have hsub : (Instr.fp2Sub a b).wellFormed = true := by simp [Instr.wellFormed, ha, hb]
    refine ⟨decode_words .fp2Add false hadd rfl rfl, decode_words .fp2Sub false hsub rfl rfl,
      fun ws => ⟨decode_words_flag_not_taken .fp2Add rfl rfl ws, decode_words_flag_not_taken .fp2Sub rfl rfl ws⟩,
      fun s => ⟨exec_eq_respond hadd nofun s, exec_eq_respond hsub nofun s, fun f => ?_⟩⟩
    have hsel : (Instr.fp2Csel f a b).wellFormed = true := by simp [Instr.wellFormed, ha, hb]
    exact ⟨decode_words .fp2Csel f hsel rfl (by cases f <;> rfl),
      fp2Words_fp2Csel f ha hb ▸ exec_eq_respond hsel nofun s⟩
  · have hneg : (Instr.fp2Neg a).wellFormed = true := ha
    have hcanon : (Instr.fp2Canon a).wellFormed = true := ha
    exact ⟨decode_words .fp2Neg false hneg rfl rfl, decode_words .fp2Canon false hcanon rfl rfl,
      fun ws => ⟨decode_words_flag_not_taken .fp2Neg rfl rfl ws, decode_words_flag_not_taken .fp2Canon rfl rfl ws⟩,
      fun s => ⟨exec_eq_respond hneg nofun s, exec_eq_respond hcanon nofun s⟩⟩

/-! ### Multiplication (R105) -/

theorem fp2Mul_comm (a b : Fp2) : fp2Mul a b = fp2Mul b a := by
  simp only [fp2Mul, f127Mul_comm b.a0, f127Mul_comm b.a1, f127Add_comm (f127Mul a.a1 b.a0)]

theorem fp2Mul_a1_val_eq_zero_iff {a b : Fp2} (ha : NRFp2 a) (hb : NRFp2 b) :
    val (fp2Mul a b).a1 = 0 ↔ (val a.a0 = 0 ∨ val b.a1 = 0) ∧ (val a.a1 = 0 ∨ val b.a0 = 0) := by
  rw [fp2Mul, f127Add_val_eq_zero_iff (nr127_f127Mul _ _) (nr127_f127Mul _ _), f127Mul_val_eq_zero_iff ha.1 hb.2,
    f127Mul_val_eq_zero_iff ha.2 hb.1]

theorem fp2Mul_a0_val_eq_zero_iff {a b : Fp2} (ha : NRFp2 a) (hb : NRFp2 b) :
    val (fp2Mul a b).a0 = 0 ↔ (val a.a0 = 0 ∨ val b.a0 = 0) ∧ val (f127Mul a.a1 b.a1) = P127 := by
  rw [fp2Mul, f127Sub_val_eq_zero_iff (nr127_f127Mul _ _) (nr127_f127Mul _ _), f127Mul_val_eq_zero_iff ha.1 hb.1]

/-- Settles O48: each component has the residue of its formula, and only `0 + 0` and `0 - p` give the zero pattern. -/
theorem fp2MulResult : Obligations.Fp2MulResult := by
  unfold Obligations.Fp2MulResult
  intro a b ha hb
  have hw : (Instr.fp2Mul a b).wellFormed = true := by simp [Instr.wellFormed, ha, hb]
  exact ⟨decode_words .fp2Mul false hw rfl rfl, decode_words_flag_not_taken .fp2Mul rfl rfl,
    fun s => ⟨fp2Mul a b, exec_eq_respond hw nofun s, rfl, rfl, fp2Mul_comm a b, fun hna hnb =>
      ⟨nrFp2_fp2Mul a b, fp2Mul_a0_cast hna hnb, fp2Mul_a1_cast hna hnb, fp2Mul_a1_val_eq_zero_iff hna hnb,
        fp2Mul_a0_val_eq_zero_iff hna hnb⟩⟩⟩

/-! ### Squaring (R107) -/

theorem fp2Eq_fp2Sqr_fp2Mul_self {a : Fp2} (ha : NRFp2 a) : Fp2Eq (fp2Sqr a) (fp2Mul a a) := by
  rw [fp2Eq_iff_value_eq (nrFp2_fp2Sqr a) (nrFp2_fp2Mul a a), fp2Value_fp2Sqr ha, fp2Value_fp2Mul ha ha]

/-- Settles O49: the square and the product stand for one element, and the zeros of R107's example differ. -/
theorem fp2SqrResult : Obligations.Fp2SqrResult := by
  unfold Obligations.Fp2SqrResult
  refine ⟨fun a ha => ?_, by decide, by decide⟩
  have hw : (Instr.fp2Sqr a).wellFormed = true := ha
  exact ⟨decode_words .fp2Sqr false hw rfl rfl, decode_words_flag_not_taken .fp2Sqr rfl rfl,
    fun s => ⟨fp2Sqr a, exec_eq_respond hw nofun s, rfl, rfl, fun hna =>
      ⟨nrFp2_fp2Sqr a, fp2Sqr_a0_cast hna, fp2Sqr_a1_cast hna, fp2Eq_fp2Sqr_fp2Mul_self hna⟩⟩⟩

/-! ### The three-multiplication form (R106) -/

/-- The imaginary part of a product in the three-multiplication form (R106). -/
def karatsubaA1 (a b : Fp2) : List Limb :=
  f127Sub (f127Sub (f127Mul (f127Add a.a0 a.a1) (f127Add b.a0 b.a1)) (f127Mul a.a0 b.a0)) (f127Mul a.a1 b.a1)

theorem nr127_karatsubaA1 (a b : Fp2) : NR127 (karatsubaA1 a b) := nr127_f127Sub _ (f127Mul_length _ _)

theorem karatsubaA1_cast {a b : Fp2} (ha : NRFp2 a) (hb : NRFp2 b) :
    (val (karatsubaA1 a b) : ZMod P127) = val (fp2Mul a b).a1 := by
  rw [karatsubaA1, f127Sub_cast (nr127_f127Sub _ (f127Mul_length _ _)) (nr127_f127Mul _ _),
    f127Sub_cast (nr127_f127Mul _ _) (nr127_f127Mul _ _), f127Mul_cast (nr127_f127Add _ _) (nr127_f127Add _ _),
    f127Add_cast ha.1 ha.2, f127Add_cast hb.1 hb.2, f127Mul_cast ha.1 hb.1, f127Mul_cast ha.2 hb.2,
    fp2Mul_a1_cast ha hb]
  ring

/-- Zero is the one class with two values in `NR127`. -/
theorem NR127.mod_eq_zero_of_ne {a b : List Limb} (ha : NR127 a) (hb : NR127 b) (h : val a ≡ val b [MOD P127])
    (hne : a ≠ b) : val a % P127 = 0 ∧ val b % P127 = 0 := by
  have hval : val a ≠ val b := fun hv => hne (eq_of_val_eq (ha.1.trans hb.1.symm) hv)
  have hva := ha.2
  have hvb := hb.2
  simp only [P127, Nat.ModEq] at *
  omega

/-- Settles O50: both forms have the residue `a0*b1 + a1*b0`, and only the class of zero has two values. -/
theorem karatsubaFormAgreesAfterCanon : Obligations.KaratsubaFormAgreesAfterCanon := by
  unfold Obligations.KaratsubaFormAgreesAfterCanon
  refine ⟨fun a b ha hb => ?_, by decide⟩
  have hk := nr127_karatsubaA1 a b
  have hm := (nrFp2_fp2Mul a b).2
  have hcast := karatsubaA1_cast ha hb
  exact ⟨(f127Canon_eq_iff_cast hk hm).mpr hcast,
    hk.mod_eq_zero_of_ne hm ((ZMod.natCast_eq_natCast_iff _ _ P127).mp hcast)⟩

/-! ### The laws (R111) -/

theorem fp2Add_comm (a b : Fp2) : fp2Add a b = fp2Add b a := by
  rw [fp2Add, f127Add_comm, f127Add_comm a.a1]; rfl

theorem fp2Add_fp2Neg_self {a : Fp2} (ha : NRFp2 a) : fp2Add a (fp2Neg a) = ⟨vec 2 P127, vec 2 P127⟩ := by
  rw [fp2Add, fp2Neg, f127Add_f127Neg_self ha.1, f127Add_f127Neg_self ha.2]

theorem fp2Canon_P127 : fp2Canon ⟨vec 2 P127, vec 2 P127⟩ = ⟨vec 2 0, vec 2 0⟩ := by
  rw [fp2Canon, f127Canon_P127]

theorem fp2Mul_fp2Add_fp2Eq {a b c : Fp2} (ha : NRFp2 a) (hb : NRFp2 b) (hc : NRFp2 c) :
    Fp2Eq (fp2Mul a (fp2Add b c)) (fp2Add (fp2Mul a b) (fp2Mul a c)) := by
  rw [fp2Eq_iff_value_eq (nrFp2_fp2Mul _ _) (nrFp2_fp2Add _ _), fp2Value_fp2Mul ha (nrFp2_fp2Add b c),
    fp2Value_fp2Add hb hc, fp2Value_fp2Add (nrFp2_fp2Mul a b) (nrFp2_fp2Mul a c), fp2Value_fp2Mul ha hb,
    fp2Value_fp2Mul ha hc, mul_add]

/-- Settles O51: the bit-for-bit laws hold in each component, the others are laws of the quadratic algebra. -/
theorem fp2LawsAndRangeClosure : Obligations.Fp2LawsAndRangeClosure := by
  unfold Obligations.Fp2LawsAndRangeClosure
  intro a b c ha hb hc
  exact ⟨⟨nrFp2_fp2Add a b, nrFp2_fp2Sub a hb, nrFp2_fp2Neg ha, nrFp2_fp2Mul a b, nrFp2_fp2Sqr a,
      nrFp2_fp2Canon ha⟩,
    fp2Add_comm a b, fp2Mul_comm a b, (fp2Eq_fp2Sqr_fp2Mul_self ha).symm, fp2Add_fp2Neg_self ha, fp2Canon_P127,
    fp2Mul_fp2Add_fp2Eq ha hb hc⟩

end Sys2Proof.Machine
end


section
/-! PROOFS. The family 44_edwards.md: the Edwards commands. Every formula of R115 to R117 is carried over once to the
elements the FP2 values stand for (`Denotes`, `DenotesPoint`, `DenotesEntry`); the statements about points are then
identities of a commutative ring. -/

namespace Sys2Proof.Machine

open Config (P127)

/-! ### The steps of the commands (R115 to R117) -/

theorem nrEdPoint_edDbl (P : EdPoint) : NREdPoint (edDbl P) :=
  ⟨nrFp2_fp2Mul _ _, nrFp2_fp2Mul _ _, nrFp2_fp2Mul _ _, nrFp2_fp2Add _ _, nrFp2_fp2Sub _ (nrFp2_fp2Add _ _)⟩

theorem nrEdPoint_edAddWith (P : EdPoint) (Q : EdEntry) (d : Fp2) : NREdPoint (edAddWith P Q d) :=
  ⟨nrFp2_fp2Mul _ _, nrFp2_fp2Mul _ _, nrFp2_fp2Mul _ _, nrFp2_fp2Sub _ (nrFp2_fp2Mul _ _), nrFp2_fp2Add _ _⟩

theorem isEdPoint_replaceT {P : EdPoint} {Ta Tb : Fp2} (hP : isEdPoint P = true) (hTa : isFp2 Ta = true)
    (hTb : isFp2 Tb = true) : isEdPoint { P with Ta := Ta, Tb := Tb } = true := by
  simp only [isEdPoint, Bool.and_eq_true] at hP ⊢
  obtain ⟨⟨hXYZ, -⟩, -⟩ := hP
  exact ⟨⟨hXYZ, hTa⟩, hTb⟩

theorem isEdEntry_replaceDoubledZ {Q : EdEntry} {z : Fp2} (hQ : isEdEntry Q = true) (hz : isFp2 z = true) :
    isEdEntry { Q with doubledZ := z } = true := by
  simp only [isEdEntry, Bool.and_eq_true] at hQ ⊢
  obtain ⟨⟨hYX, -⟩, hT⟩ := hQ
  exact ⟨⟨hYX, hz⟩, hT⟩

/-- Settles O52: the result is `edDbl P` word for word, and `edDbl` reads `X`, `Y` and `Z` only. -/
theorem edDoubleSteps : Obligations.EdDoubleSteps := by
  unfold Obligations.EdDoubleSteps
  intro P hP
  have hw : (Instr.edDbl P).wellFormed = true := hP
  refine ⟨decode_words .edDbl false hw rfl rfl, decode_words_flag_not_taken .edDbl rfl rfl, fun s =>
    ⟨exec_eq_respond hw nofun s, fun _ => nrEdPoint_edDbl P, fun Ta Tb hTa hTb => ?_⟩⟩
  have hw' : (Instr.edDbl { P with Ta := Ta, Tb := Tb }).wellFormed = true := isEdPoint_replaceT hP hTa hTb
  rw [exec_eq_respond hw' nofun s, exec_eq_respond hw nofun s]
  rfl

/-- Settles O53: both results are `edAddWith` word for word with their own line for `d`, and `edMadd` has no use of
`doubledZ`. -/
theorem edAddSteps : Obligations.EdAddSteps := by
  unfold Obligations.EdAddSteps
  intro P Q hP hQ
  have hadd : (Instr.edAdd P Q).wellFormed = true := by simp [Instr.wellFormed, hP, hQ]
  have hmadd : (Instr.edMadd P Q).wellFormed = true := by simp [Instr.wellFormed, hP, hQ]
  refine ⟨decode_words .edAdd false hadd rfl rfl, decode_words .edMadd false hmadd rfl rfl,
    fun ws => ⟨decode_words_flag_not_taken .edAdd rfl rfl ws, decode_words_flag_not_taken .edMadd rfl rfl ws⟩,
    fun s => ⟨exec_eq_respond hadd nofun s, exec_eq_respond hmadd nofun s,
      fun _ _ => ⟨nrEdPoint_edAddWith P Q _, nrEdPoint_edAddWith P Q _⟩, fun z hz => ?_⟩⟩
  have hmadd' : (Instr.edMadd P { Q with doubledZ := z }).wellFormed = true := by
    simp [Instr.wellFormed, hP, isEdEntry_replaceDoubledZ hQ hz]
  rw [exec_eq_respond hmadd' nofun s, exec_eq_respond hmadd nofun s]
  rfl

/-! ### The elements that points and table entries stand for (R101, R111) -/

/-- The ring in which `fp2Value` takes its values: `ZMod P127` with `i^2 = -1`. -/
abbrev Fp2Ring : Type := QuadraticAlgebra (ZMod P127) (-1) 0

/-- `a` is in the working domain and stands for `u`. -/
def Denotes (a : Fp2) (u : Fp2Ring) : Prop := NRFp2 a ∧ fp2Value a = u

theorem fp2Value_fp2Sub {a b : Fp2} (ha : NRFp2 a) (hb : NRFp2 b) :
    fp2Value (fp2Sub a b) = fp2Value a - fp2Value b :=
  QuadraticAlgebra.ext (f127Sub_cast ha.1 hb.1) (f127Sub_cast ha.2 hb.2)

theorem NRFp2.denotes {a : Fp2} (h : NRFp2 a) : Denotes a (fp2Value a) := ⟨h, rfl⟩

section
variable {a b : Fp2} {u v : Fp2Ring}

theorem Denotes.of_eq (ha : Denotes a u) (h : u = v) : Denotes a v := h ▸ ha

theorem Denotes.add (ha : Denotes a u) (hb : Denotes b v) : Denotes (fp2Add a b) (u + v) :=
  ⟨nrFp2_fp2Add a b, by rw [fp2Value_fp2Add ha.1 hb.1, ha.2, hb.2]⟩

theorem Denotes.sub (ha : Denotes a u) (hb : Denotes b v) : Denotes (fp2Sub a b) (u - v) :=
  ⟨nrFp2_fp2Sub a hb.1, by rw [fp2Value_fp2Sub ha.1 hb.1, ha.2, hb.2]⟩

theorem Denotes.mul (ha : Denotes a u) (hb : Denotes b v) : Denotes (fp2Mul a b) (u * v) :=
  ⟨nrFp2_fp2Mul a b, by rw [fp2Value_fp2Mul ha.1 hb.1, ha.2, hb.2]⟩

theorem Denotes.sqr (ha : Denotes a u) : Denotes (fp2Sqr a) (u * u) :=
  ⟨nrFp2_fp2Sqr a, by rw [fp2Value_fp2Sqr ha.1, ha.2]⟩

theorem Denotes.fp2Eq_iff (ha : Denotes a u) (hb : Denotes b v) : Fp2Eq a b ↔ u = v := by
  rw [fp2Eq_iff_value_eq ha.1 hb.1, ha.2, hb.2]

end

theorem denotes_one : Denotes ⟨vec 2 1, vec 2 0⟩ 1 :=
  ⟨by decide, QuadraticAlgebra.ext Nat.cast_one Nat.cast_zero⟩

/-- The elements of a point, component by component. -/
structure DenotesPoint (P : EdPoint) (x y z ta tb : Fp2Ring) : Prop where
  X : Denotes P.X x
  Y : Denotes P.Y y
  Z : Denotes P.Z z
  Ta : Denotes P.Ta ta
  Tb : Denotes P.Tb tb

/-- The elements of a table entry, component by component. -/
structure DenotesEntry (Q : EdEntry) (sumYX diffYX doubledZ doubledTProduct : Fp2Ring) : Prop where
  sumYX : Denotes Q.sumYX sumYX
  diffYX : Denotes Q.diffYX diffYX
  doubledZ : Denotes Q.doubledZ doubledZ
  doubledTProduct : Denotes Q.doubledTProduct doubledTProduct

theorem exists_denotesPoint {P : EdPoint} (h : NREdPoint P) : ∃ x y z ta tb, DenotesPoint P x y z ta tb := by
  obtain ⟨hX, hY, hZ, hTa, hTb⟩ := h
  exact ⟨_, _, _, _, _, hX.denotes, hY.denotes, hZ.denotes, hTa.denotes, hTb.denotes⟩

theorem exists_denotesEntry {Q : EdEntry} (h : NREdEntry Q) : ∃ s m w k, DenotesEntry Q s m w k := by
  obtain ⟨hs, hm, hw, hk⟩ := h
  exact ⟨_, _, _, _, hs.denotes, hm.denotes, hw.denotes, hk.denotes⟩

/-! ### What the commands and the curve's relations say of those elements -/

section
variable {P : EdPoint} {x y z ta tb : Fp2Ring} (hP : DenotesPoint P x y z ta tb)
include hP

theorem DenotesPoint.segreInv_iff : SegreInv P ↔ ta * tb * z = x * y :=
  ((hP.Ta.mul hP.Tb).mul hP.Z).fp2Eq_iff (hP.X.mul hP.Y)

theorem DenotesPoint.onCurve_iff {d : Fp2} {δ : Fp2Ring} (hd : Denotes d δ) :
    OnCurve d P ↔ y ^ 2 - x ^ 2 = z ^ 2 + δ * (ta * tb) ^ 2 := by
  simp only [sq]
  exact (hP.Y.sqr.sub hP.X.sqr).fp2Eq_iff (hP.Z.sqr.add (hd.mul (hP.Ta.mul hP.Tb).sqr))

/-- The table entry of R114. -/
theorem DenotesPoint.entryOf {d : Fp2} {δ : Fp2Ring} (hd : Denotes d δ) :
    DenotesEntry (entryOf d P) (y + x) (y - x) (2 * z) (2 * δ * (ta * tb)) where
  sumYX := hP.Y.add hP.X
  diffYX := hP.Y.sub hP.X
  doubledZ := (hP.Z.add hP.Z).of_eq (two_mul z).symm
  doubledTProduct := ((hd.add hd).mul (hP.Ta.mul hP.Tb)).of_eq (by rw [two_mul])

/-- R115: the values of the four factors `d`, `e`, `f`, `g` and of the results formed from them. -/
theorem DenotesPoint.edDbl {d e f g : Fp2Ring} (hd : d = x ^ 2 + y ^ 2) (he : e = 2 * x * y) (hf : f = y ^ 2 - x ^ 2)
    (hg : g = 2 * z ^ 2 - f) : DenotesPoint (edDbl P) (e * g) (d * f) (f * g) d e := by
  have hD := (hP.X.sqr.add hP.Y.sqr).of_eq (show _ = d by rw [hd]; ring)
  have hE := ((hP.X.add hP.Y).sqr.sub hD).of_eq (show _ = e by rw [hd, he]; ring)
  have hF := (hP.Y.sqr.sub hP.X.sqr).of_eq (show _ = f by rw [hf]; ring)
  have hG := ((hP.Z.sqr.add hP.Z.sqr).sub hF).of_eq (show _ = g by rw [hg]; ring)
  exact ⟨hE.mul hG, hD.mul hF, hF.mul hG, hD, hE⟩

/-- R116 and R117: the values of the four factors `e`, `f`, `g`, `h` and of the results formed from them. -/
theorem DenotesPoint.edAddWith {Q : EdEntry} {c : Fp2} {s m w k d e f g h : Fp2Ring} (hQ : DenotesEntry Q s m w k)
    (hc : Denotes c d) (he : (y + x) * s - (y - x) * m = e) (hf : d - ta * tb * k = f) (hg : d + ta * tb * k = g)
    (hh : (y + x) * s + (y - x) * m = h) : DenotesPoint (edAddWith P Q c) (e * f) (g * h) (f * g) e h := by
  have hA := (hP.Y.sub hP.X).mul hQ.diffYX
  have hB := (hP.Y.add hP.X).mul hQ.sumYX
  have hC := (hP.Ta.mul hP.Tb).mul hQ.doubledTProduct
  have hE := (hB.sub hA).of_eq he
  have hF := (hc.sub hC).of_eq hf
  have hG := (hc.add hC).of_eq hg
  have hH := (hB.add hA).of_eq hh
  exact ⟨hE.mul hF, hG.mul hH, hF.mul hG, hE, hH⟩

end

/-! ### The invariant on the results (R119) -/

theorem segreInv_edDbl {P : EdPoint} (hP : NREdPoint P) : SegreInv (edDbl P) := by
  obtain ⟨x, y, z, ta, tb, hP⟩ := exists_denotesPoint hP
  rw [(hP.edDbl rfl rfl rfl rfl).segreInv_iff]
  ring

theorem segreInv_edAddWith {P : EdPoint} {Q : EdEntry} {d : Fp2} (hP : NREdPoint P) (hQ : NREdEntry Q)
    (hd : NRFp2 d) : SegreInv (edAddWith P Q d) := by
  obtain ⟨x, y, z, ta, tb, hP⟩ := exists_denotesPoint hP
  obtain ⟨s, m, w, k, hQ⟩ := exists_denotesEntry hQ
  rw [(hP.edAddWith hQ hd.denotes rfl rfl rfl rfl).segreInv_iff]
  ring

/-- Settles O54: both sides are the product of the same four factors. -/
theorem edResultsMeetTheInvariant : Obligations.EdResultsMeetTheInvariant := by
  unfold Obligations.EdResultsMeetTheInvariant
  intro P Q hP hQ
  exact ⟨segreInv_edDbl hP, segreInv_edAddWith hP hQ (nrFp2_fp2Mul _ _), segreInv_edAddWith hP hQ (nrFp2_fp2Add _ _)⟩

/-! ### Doubling on the curve (R113, R119) -/

/-- With `t = T` and `f = y^2 - x^2 = z^2 + δ*t^2` on the curve, `g = 2*z^2 - f = z^2 - δ*t^2`; so
`f^2 - g^2 = 4*δ*t^2*z^2 = δ*e^2`, and `d^2 = e^2 + f^2`. -/
theorem curve_double {x y z t δ d e f g : Fp2Ring} (hd : d = x ^ 2 + y ^ 2) (he : e = 2 * x * y)
    (hf : f = y ^ 2 - x ^ 2) (hg : g = 2 * z ^ 2 - f) (hsegre : t * z = x * y)
    (hcurve : y ^ 2 - x ^ 2 = z ^ 2 + δ * t ^ 2) :
    (d * f) ^ 2 - (e * g) ^ 2 = (f * g) ^ 2 + δ * (d * e) ^ 2 := by
  have hpyth : d ^ 2 = e ^ 2 + f ^ 2 := by rw [hd, he, hf]; ring
  have hfz : f = z ^ 2 + δ * t ^ 2 := hf.trans hcurve
  have hdiff : f ^ 2 - g ^ 2 = δ * e ^ 2 := by
    rw [he, mul_assoc, ← hsegre, hg, hfz]; ring
  linear_combination d ^ 2 * hdiff + g ^ 2 * hpyth

/-- Settles O55: the invariant holds of every result, and the curve's equation is `curve_double`. -/
theorem edDoubleStaysOnCurve : Obligations.EdDoubleStaysOnCurve := by
  unfold Obligations.EdDoubleStaysOnCurve
  intro d P hd hP hsegre hcurve
  refine ⟨segreInv_edDbl hP, ?_⟩
  obtain ⟨x, y, z, ta, tb, hP⟩ := exists_denotesPoint hP
  rw [hP.segreInv_iff] at hsegre
  rw [hP.onCurve_iff hd.denotes] at hcurve
  rw [(hP.edDbl rfl rfl rfl rfl).onCurve_iff hd.denotes]
  exact curve_double rfl rfl rfl rfl hsegre hcurve

/-! ### Adding a point to itself (R120) -/

/-- Settles O56: on the curve each of the four factors of the addition is twice the factor of the doubling that has
its place. -/
theorem edAddOfSelfIsDouble : Obligations.EdAddOfSelfIsDouble := by
  unfold Obligations.EdAddOfSelfIsDouble
  intro d P hd hP hcurve
  obtain ⟨x, y, z, ta, tb, hP⟩ := exists_denotesPoint hP
  rw [hP.onCurve_iff hd.denotes] at hcurve
  have hQ := hP.entryOf hd.denotes
  have hD := hP.edDbl rfl rfl rfl rfl
  have hA := hP.edAddWith (e := 2 * (2 * x * y)) (f := 2 * (2 * z ^ 2 - (y ^ 2 - x ^ 2))) (g := 2 * (y ^ 2 - x ^ 2))
    (h := 2 * (x ^ 2 + y ^ 2)) hQ (hP.Z.mul hQ.doubledZ) (by ring) (by linear_combination 2 * hcurve)
    (by linear_combination -2 * hcurve) (by ring)
  exact ⟨((hA.X.mul hD.Z).fp2Eq_iff (hD.X.mul hA.Z)).mpr (by ring),
    ((hA.Y.mul hD.Z).fp2Eq_iff (hD.Y.mul hA.Z)).mpr (by ring)⟩

/-! ### The sum of two points (R114, R116, R117) -/

/-- `R` is the projective point the affine addition law of the curve gives for `P` and `Q`, denominators multiplied
out. -/
def IsCurveSum (d : Fp2) (P Q R : EdPoint) : Prop :=
  let N := fp2Mul (fp2Sqr P.Z) (fp2Sqr Q.Z)
  let K := fp2Mul d (fp2Mul (fp2Mul P.X P.Y) (fp2Mul Q.X Q.Y))
  Fp2Eq (fp2Mul R.X (fp2Add N K)) (fp2Mul R.Z (fp2Mul (fp2Add (fp2Mul P.X Q.Y) (fp2Mul P.Y Q.X)) (fp2Mul P.Z Q.Z))) ∧
  Fp2Eq (fp2Mul R.Y (fp2Sub N K)) (fp2Mul R.Z (fp2Mul (fp2Add (fp2Mul P.Y Q.Y) (fp2Mul P.X Q.X)) (fp2Mul P.Z Q.Z)))

/-- With `w = z1*z2`, `f = 2*(w - δ*t1*t2)` and `g = 2*(w + δ*t1*t2)`, the denominators `w^2 ± δ*x1*y1*x2*y2` are
`w*g/2` and `w*f/2`. -/
theorem isCurveSum_edAddWith {d c : Fp2} {P Q : EdPoint} {x₁ y₁ z₁ ta₁ tb₁ x₂ y₂ z₂ ta₂ tb₂ : Fp2Ring} (hd : NRFp2 d)
    (hP : DenotesPoint P x₁ y₁ z₁ ta₁ tb₁) (hQ : DenotesPoint Q x₂ y₂ z₂ ta₂ tb₂) (hsP : SegreInv P)
    (hsQ : SegreInv Q) (hc : Denotes c (2 * (z₁ * z₂))) : IsCurveSum d P Q (edAddWith P (entryOf d Q) c) := by
  rw [hP.segreInv_iff] at hsP
  rw [hQ.segreInv_iff] at hsQ
  have hd := hd.denotes
  have hN := hP.Z.sqr.mul hQ.Z.sqr
  have hK := (hd.mul ((hP.X.mul hP.Y).mul (hQ.X.mul hQ.Y))).of_eq
    (show _ = fp2Value d * (ta₁ * tb₁ * z₁ * (ta₂ * tb₂ * z₂)) by rw [hsP, hsQ])
  have hR := hP.edAddWith (e := 2 * (x₁ * y₂ + y₁ * x₂)) (f := 2 * (z₁ * z₂ - fp2Value d * (ta₁ * tb₁ * (ta₂ * tb₂))))
    (g := 2 * (z₁ * z₂ + fp2Value d * (ta₁ * tb₁ * (ta₂ * tb₂)))) (h := 2 * (y₁ * y₂ + x₁ * x₂)) (hQ.entryOf hd) hc
    (by ring) (by ring) (by ring) (by ring)
  have hZ := hP.Z.mul hQ.Z
  constructor
  · refine ((hR.X.mul (hN.add hK)).fp2Eq_iff (hR.Z.mul (((hP.X.mul hQ.Y).add (hP.Y.mul hQ.X)).mul hZ))).mpr ?_
    ring
  · refine ((hR.Y.mul (hN.sub hK)).fp2Eq_iff (hR.Z.mul (((hP.Y.mul hQ.Y).add (hP.X.mul hQ.X)).mul hZ))).mpr ?_
    ring

/-- Settles O57: both commands are `edAddWith` with `2*z1*z2` in the place of `d`, `ED.MADD` because `z2 = 1`. -/
theorem edAddIsTheCurveSum : Obligations.EdAddIsTheCurveSum := by
  unfold Obligations.EdAddIsTheCurveSum
  intro d P Q hd hP hQ hsP hsQ
  obtain ⟨x₁, y₁, z₁, ta₁, tb₁, hP⟩ := exists_denotesPoint hP
  obtain ⟨x₂, y₂, z₂, ta₂, tb₂, hQ⟩ := exists_denotesPoint hQ
  refine ⟨isCurveSum_edAddWith hd hP hQ hsP hsQ ?_, fun hone => isCurveSum_edAddWith hd hP hQ hsP hsQ ?_⟩
  · exact (hP.Z.mul (hQ.entryOf hd.denotes).doubledZ).of_eq (by ring)
  · have hz₂ : z₂ = 1 := (hQ.Z.fp2Eq_iff denotes_one).mp hone
    exact (hP.Z.add hP.Z).of_eq (by rw [hz₂]; ring)

end Sys2Proof.Machine
end

section
/-! PROOFS. The family 45_ladder.md: the ladder commands. On the working domain of a field under the contract of R124 an
element stands for its residue (`LadderParams.Denotes`); `XDBL` and the differential addition are carried over once to
residues, and a ladder step is put together from the two. -/

namespace Sys2Proof.Config

/-! ### The residue an element stands for (R124) -/

/-- `a` is in the working domain and stands for the residue `u`. -/
def LadderParams.Denotes (F : LadderParams) (a : List Limb) (u : ZMod F.ql) : Prop :=
  F.nrl a ∧ (val a : ZMod F.ql) = u

section
variable {F : LadderParams} {a b : List Limb} {u v : ZMod F.ql}

theorem LadderParams.denotes_val (h : F.nrl a) : F.Denotes a (val a) := ⟨h, rfl⟩

theorem LadderParams.Denotes.of_eq (ha : F.Denotes a u) (h : u = v) : F.Denotes a v := h ▸ ha

theorem LadderParams.Contract.denotes_add (hF : F.Contract) (ha : F.Denotes a u) (hb : F.Denotes b v) :
    F.Denotes (F.add a b) (u + v) := by
  refine ⟨hF.add_nrl a b ha.1 hb.1, ?_⟩
  rw [← ha.2, ← hb.2]
  exact_mod_cast (ZMod.natCast_eq_natCast_iff' _ _ F.ql).mpr (hF.add_mod a b ha.1 hb.1)

theorem LadderParams.Contract.denotes_sub (hF : F.Contract) (ha : F.Denotes a u) (hb : F.Denotes b v) :
    F.Denotes (F.sub a b) (u - v) := by
  refine ⟨hF.sub_nrl a b ha.1 hb.1, eq_sub_of_add_eq ?_⟩
  rw [← ha.2, ← hb.2]
  exact_mod_cast (ZMod.natCast_eq_natCast_iff' _ _ F.ql).mpr (hF.sub_mod a b ha.1 hb.1)

theorem LadderParams.Contract.denotes_mul (hF : F.Contract) (ha : F.Denotes a u) (hb : F.Denotes b v) :
    F.Denotes (F.mul a b) (u * v) := by
  refine ⟨hF.mul_nrl a b ha.1 hb.1, ?_⟩
  rw [← ha.2, ← hb.2]
  exact_mod_cast (ZMod.natCast_eq_natCast_iff' _ _ F.ql).mpr (hF.mul_mod a b ha.1 hb.1)

theorem LadderParams.Contract.denotes_sqr (hF : F.Contract) (ha : F.Denotes a u) : F.Denotes (F.sqr a) (u ^ 2) := by
  refine ⟨hF.sqr_nrl a ha.1, ?_⟩
  rw [← ha.2, sq]
  exact_mod_cast (ZMod.natCast_eq_natCast_iff' _ _ F.ql).mpr (hF.sqr_mod a ha.1)

theorem LadderParams.Contract.denotes_mulA24 (hF : F.Contract) (ha : F.Denotes a u) :
    F.Denotes (F.mulA24 a) (F.a24 * u) := by
  refine ⟨hF.mulA24_nrl a ha.1, ?_⟩
  rw [← ha.2]
  exact_mod_cast (ZMod.natCast_eq_natCast_iff' _ _ F.ql).mpr (hF.mulA24_mod a ha.1)

end

end Sys2Proof.Config

namespace Sys2Proof.Machine

open Config (P127 LadderParams)

theorem nrl_picked {F : LadderParams} (f : Bool) {a b : List Limb} (ha : F.nrl a) (hb : F.nrl b) :
    F.nrl (if f then a else b) := by
  cases f
  · exact hb
  · exact ha

/-! ### Doubling and differential addition (R127, R128, R132) -/

section
variable {F : LadderParams} (hF : F.Contract)
include hF

/-- R127: `AA - BB` is `4xz`, and `BB` is `(x - z)^2`. -/
theorem xdbl_denotes {a c : List Limb} {x z : ZMod F.ql} (hx : F.Denotes a x) (hz : F.Denotes c z) :
    F.Denotes (xdbl F a c).1 ((x ^ 2 - z ^ 2) ^ 2) ∧
    F.Denotes (xdbl F a c).2 (4 * x * z * ((x - z) ^ 2 + F.a24 * (4 * x * z))) := by
  have hAA := hF.denotes_sqr (hF.denotes_add hx hz)
  have hBB := hF.denotes_sqr (hF.denotes_sub hx hz)
  have hE := (hF.denotes_sub hAA hBB).of_eq (show _ = 4 * x * z by ring)
  have ht := hF.denotes_add (hF.denotes_mulA24 hE) hBB
  exact ⟨(hF.denotes_mul hAA hBB).of_eq (by ring), (hF.denotes_mul hE ht).of_eq (by ring)⟩

/-- R128, R132: the sum and the difference of the cross products are `2(x2*x3 - z2*z3)` and `2(x3*z2 - z3*x2)`. -/
theorem mlDadd_denotes {S : MlState} {fx : List Limb} {xd x2 z2 x3 z3 : ZMod F.ql} (hfx : F.Denotes fx xd)
    (hx2 : F.Denotes S.x2 x2) (hz2 : F.Denotes S.z2 z2) (hx3 : F.Denotes S.x3 x3) (hz3 : F.Denotes S.z3 z3) :
    F.Denotes (mlDadd F S fx).x3 (4 * (x2 * x3 - z2 * z3) ^ 2) ∧
    F.Denotes (mlDadd F S fx).z3 (4 * xd * (x3 * z2 - z3 * x2) ^ 2) := by
  have hDA := hF.denotes_mul (hF.denotes_sub hx3 hz3) (hF.denotes_add hx2 hz2)
  have hCB := hF.denotes_mul (hF.denotes_add hx3 hz3) (hF.denotes_sub hx2 hz2)
  have hS := (hF.denotes_add hDA hCB).of_eq (show _ = 2 * (x2 * x3 - z2 * z3) by ring)
  have hW := (hF.denotes_sub hDA hCB).of_eq (show _ = 2 * (x3 * z2 - z3 * x2) by ring)
  exact ⟨(hF.denotes_sqr hS).of_eq (by ring), (hF.denotes_mul hfx (hF.denotes_sqr hW)).of_eq (by ring)⟩

/-! ### A ladder step is a differential addition and a doubling (R129) -/

/-- The masks pass one of the two sums and one of the two differences whole. -/
theorem mlStep_eq (f : Bool) {S : MlState} (hx2 : S.x2.length = F.nl) (hz2 : S.z2.length = F.nl)
    (hx3 : S.x3.length = F.nl) (hz3 : S.z3.length = F.nl) :
    let d := mlDouble F (if f then F.add S.x3 S.z3 else F.add S.x2 S.z2)
      (if f then F.sub S.x3 S.z3 else F.sub S.x2 S.z2)
    mlStep F f S = { mlDadd F S S.x1 with x2 := d.1, z2 := d.2 } := by
  have hsum := (hF.add_length _ _ hx3 hz3).trans (hF.add_length _ _ hx2 hz2).symm
  have hdiff := (hF.sub_length _ _ hx3 hz3).trans (hF.sub_length _ _ hx2 hz2).symm
  simp only [mlStep, xcross, selN_eq f hsum, selN_eq f hdiff]
  rfl

/-- So the step doubles the pair the flag picks. -/
theorem mlStep_eq_xdbl (f : Bool) {S : MlState} (hS : NRMlState F S) :
    let d := xdbl F (if f then S.x3 else S.x2) (if f then S.z3 else S.z2)
    mlStep F f S = { mlDadd F S S.x1 with x2 := d.1, z2 := d.2 } := by
  obtain ⟨-, hx2, hz2, hx3, hz3⟩ := hS
  rw [mlStep_eq hF f (hF.nrl_length _ hx2) (hF.nrl_length _ hz2) (hF.nrl_length _ hx3) (hF.nrl_length _ hz3)]
  cases f <;> rfl

/-! ### The working domain (R129, R130, R132) -/

theorem nrl_xdbl {x z : List Limb} (hx : F.nrl x) (hz : F.nrl z) : F.nrl (xdbl F x z).1 ∧ F.nrl (xdbl F x z).2 := by
  obtain ⟨hd1, hd2⟩ := xdbl_denotes hF (LadderParams.denotes_val hx) (LadderParams.denotes_val hz)
  exact ⟨hd1.1, hd2.1⟩

theorem nrl_mlDadd {S : MlState} {fx : List Limb} (hfx : F.nrl fx) (hx2 : F.nrl S.x2) (hz2 : F.nrl S.z2)
    (hx3 : F.nrl S.x3) (hz3 : F.nrl S.z3) : F.nrl (mlDadd F S fx).x3 ∧ F.nrl (mlDadd F S fx).z3 := by
  obtain ⟨ha3, hc3⟩ := mlDadd_denotes hF (LadderParams.denotes_val hfx) (LadderParams.denotes_val hx2)
    (LadderParams.denotes_val hz2) (LadderParams.denotes_val hx3) (LadderParams.denotes_val hz3)
  exact ⟨ha3.1, hc3.1⟩

theorem nrMlState_mlDbl {S : MlState} (hS : NRMlState F S) : NRMlState F (mlDbl F S) := by
  obtain ⟨hx1, hx2, hz2, hx3, hz3⟩ := hS
  obtain ⟨hd1, hd2⟩ := nrl_xdbl hF hx2 hz2
  exact ⟨hx1, hd1, hd2, hx3, hz3⟩

theorem nrMlState_mlDadd {S : MlState} {fx : List Limb} (hS : NRMlState F S) (hfx : F.nrl fx) :
    NRMlState F (mlDadd F S fx) := by
  obtain ⟨hx1, hx2, hz2, hx3, hz3⟩ := hS
  exact ⟨hx1, hx2, hz2, nrl_mlDadd hF hfx hx2 hz2 hx3 hz3⟩

theorem nrMlState_mlStep (f : Bool) {S : MlState} (hS : NRMlState F S) : NRMlState F (mlStep F f S) := by
  rw [mlStep_eq_xdbl hF f hS]
  obtain ⟨hx1, -, -, hsum⟩ := nrMlState_mlDadd hF hS hS.1
  obtain ⟨-, hx2, hz2, hx3, hz3⟩ := hS
  obtain ⟨hd1, hd2⟩ := nrl_xdbl hF (nrl_picked f hx3 hx2) (nrl_picked f hz3 hz2)
  exact ⟨hx1, hd1, hd2, hsum⟩

end

/-! ### The statements -/

/-- The build's ladder field meets the contract (R124). -/
theorem LF_contract : LF.Contract := Config.LF.contract

/-- Settles O58: each command answers its own function word for word, and in a step the masks select by the flag. -/
theorem ladderSteps : Obligations.LadderSteps := by
  unfold Obligations.LadderSteps
  intro S hS
  obtain ⟨hx1, hx2, hz2, hx3, hz3⟩ := (isMlState_iff S).mp hS
  have hstep (f : Bool) : (Instr.mlStep f S).wellFormed = true := hS
  have hdbl : (Instr.mlDbl S).wellFormed = true := hS
  refine ⟨fun f => decode_words .mlStep f (hstep f) rfl (by cases f <;> rfl), decode_words .mlDbl false hdbl rfl rfl,
    fun ws => ⟨decode_words_flag_not_taken .mlDbl rfl rfl ws, decode_words_flag_not_taken .mlDadd rfl rfl ws⟩,
    fun s => ⟨fun f => ?_, ⟨exec_eq_respond hdbl nofun s, nrl_xdbl LF_contract⟩, fun fx hfx => ?_⟩⟩
  · have heq := mlStep_eq LF_contract f hx2 hz2 hx3 hz3
    have hexec : exec (.mlStep f S) s = .next (s.respond .ok false (mlStateWords (mlStep LF f S))) :=
      exec_eq_respond (hstep f) nofun s
    rw [heq] at hexec
    exact ⟨hexec, fun hnr => heq ▸ nrMlState_mlStep LF_contract f hnr⟩
  · have hdadd : (Instr.mlDadd S fx).wellFormed = true := by simp [Instr.wellFormed, hS, hfx]
    exact ⟨decode_words .mlDadd false hdadd rfl rfl, exec_eq_respond hdadd nofun s,
      fun hx2 hz2 hx3 hz3 hfx => nrl_mlDadd LF_contract hfx hx2 hz2 hx3 hz3⟩

/-- Settles O59: the values are those of the doubling and of the differential addition a step is made of. -/
theorem ladderFormulas : Obligations.LadderFormulas := by
  unfold Obligations.LadderFormulas
  intro F hF S fx hS hfx f
  have hR := nrMlState_mlStep hF f hS
  have hD := nrMlState_mlDbl hF hS
  have hA := nrMlState_mlDadd hF hS hfx
  have hstep (f : Bool) := mlStep_eq_xdbl hF f hS
  obtain ⟨hx1, hx2, hz2, hx3, hz3⟩ := hS
  obtain ⟨hd1, hd2⟩ := xdbl_denotes hF (LadderParams.denotes_val (nrl_picked f hx3 hx2))
    (LadderParams.denotes_val (nrl_picked f hz3 hz2))
  have hsum {xd : List Limb} (hxd : F.nrl xd) := mlDadd_denotes hF (LadderParams.denotes_val hxd)
    (LadderParams.denotes_val hx2) (LadderParams.denotes_val hz2) (LadderParams.denotes_val hx3)
    (LadderParams.denotes_val hz3)
  obtain ⟨hr3, hrz3⟩ := hsum hx1
  obtain ⟨ha3, haz3⟩ := hsum hfx
  refine ⟨hR, hD, hA, rfl, ?_⟩
  simp only [hstep]
  exact ⟨hd1.2, hd2.2, hr3.2, hrz3.2, ha3.2, haz3.2, rfl, rfl⟩

/-! ### The test field (R136) -/

theorem P127_prime : P127.Prime := lucas_lehmer_sufficiency 127 (by decide) (by norm_num)

theorem nr127_vec {v : Nat} (h : v < 2 ^ 127) : NR127 (vec 2 v) :=
  ⟨vec_length 2 v, (val_vec2 (h.trans (by decide))).trans_lt h⟩

/-- Settles O60: the rows of the contract are the range closure and the congruences of F127, over the Mersenne prime. -/
theorem testFieldMeetsTheContract : Obligations.TestFieldMeetsTheContract where
  ql_prime := P127_prime
  ql_odd := by decide
  ql_lt := by decide
  nl_pos := by decide
  nrl_length _ h := h.1
  nrl_residue r h := ⟨vec 2 r, nr127_vec (h.trans (by decide)),
    (congrArg (· % P127) (val_vec2 (h.trans (by decide)))).trans (Nat.mod_eq_of_lt h)⟩
  nrl_zero := nr127_vec (by decide)
  nrl_one := nr127_vec (by decide)
  a24_lt := by decide
  add_length a b _ _ := f127Add_length a b
  sub_length a b _ _ := f127Sub_length a b
  mul_length a b _ _ := f127Mul_length a b
  sqr_length a _ := f127Sqr_length a
  mulA24_length a _ := f127Mul_length a _
  add_nrl a b _ _ := nr127_f127Add a b
  sub_nrl a b _ hb := nr127_f127Sub a hb.1
  mul_nrl a b _ _ := nr127_f127Mul a b
  sqr_nrl a _ := nr127_f127Mul a a
  mulA24_nrl a _ := nr127_f127Mul a _
  add_mod a b ha hb := f127Add_modEq (NR127.add_lt ha hb)
  sub_mod a b ha hb := f127Sub_modEq ha hb
  mul_mod a b ha hb := f127Mul_modEq ha hb
  sqr_mod a ha := f127Mul_modEq ha ha
  mulA24_mod a ha := by
    have hmod := f127Mul_modEq ha (nr127_vec (show 121666 < 2 ^ 127 by decide))
    rwa [val_vec2 (by decide), Nat.mul_comm] at hmod

end Sys2Proof.Machine
end

section
/-! PROOFS. The family 46_system.md: `SYS.SELIMPL`. Its answer in each of the two cases of `SEL_DONE`, the answers that do
not depend on the path selected, and the selection as an invariant of every run without the reset input. -/

namespace Sys2Proof.Machine

/-! ### The two paths (R139) -/

/-- Settles O15: what the two answers must share is fixed by the frame before the state is. -/
theorem bothPathsGiveTheSameBits : Obligations.BothPathsGiveTheSameBits := by
  unfold Obligations.BothPathsGiveTheSameBits
  intro s s' t t' f rest rest' hin hin' ht ht'
  obtain ⟨st, cf, out, next, hstep⟩ := exists_answer f
  rw [hstep s rest hin] at ht
  rw [hstep s' rest' hin'] at ht'
  injection ht with ht
  injection ht' with ht'
  subst ht ht'
  exact ⟨_, _, rfl, rfl, rfl, by simp only [swStatus_statusWord], by simp only [swCf_statusWord]⟩

/-! ### The answer of `SYS.SELIMPL` (R138) -/

theorem State.selectImpl_of_not_selDone {s : State} (h : s.cfg.selDone = false) :
    s.selectImpl = { s with cfg := ⟨Config.HAS_MAC, true⟩ } := if_neg (by simp [h])

theorem State.selectImpl_of_selDone {s : State} (h : s.cfg.selDone = true) : s.selectImpl = s := if_pos h

theorem exec_sysSelimpl_nil (s : State) : exec (.sysSelimpl []) s = .next (s.selectImpl.respond .ok false []) :=
  exec_of_wellFormed rfl s

theorem exec_sysSelimpl_of_not_selDone {s : State} (h : s.cfg.selDone = false) :
    exec (.sysSelimpl []) s = .next ({ s with cfg := ⟨Config.HAS_MAC, true⟩ }.respond .ok false []) := by
  rw [exec_sysSelimpl_nil, State.selectImpl_of_not_selDone h]

theorem exec_sysSelimpl_of_selDone {s : State} (h : s.cfg.selDone = true) :
    exec (.sysSelimpl []) s = .next (s.respond .ok false []) := by
  rw [exec_sysSelimpl_nil, State.selectImpl_of_selDone h]

theorem exec_sysSelimpl_surplus {ws : List Word} (h : ws ≠ []) (s : State) :
    exec (.sysSelimpl ws) s = .next (s.reject .badLen) :=
  exec_of_not_wellFormed (by simpa [Instr.wellFormed, isLimbs] using h) s

/-- The status word of an answer without `CF`, as a number (R45). -/
theorem statusWord_no_cf (st : Status) (c : Cfg) :
    statusWord st false c = BitVec.ofNat 64 (st.code + c.implSel.toNat * 0x200 + c.selDone.toNat * 0x400) := by
  simp [statusWord]

/-- The status word of an `OK` answer of `SYS.SELIMPL`: `SEL_DONE` is 1 in both cases. -/
theorem statusWord_selected {c : Cfg} (h : c.selDone = true) :
    statusWord .ok false c = BitVec.ofNat 64 (0x400 + c.implSel.toNat * 0x200) := by
  rw [statusWord_no_cf, h, Nat.add_comm]
  simp [Status.code]

/-- Settles O22: the next states of the three cases, with their status words as numbers. -/
theorem selimplSelectsOnce : Obligations.SelimplSelectsOnce := by
  unfold Obligations.SelimplSelectsOnce
  refine ⟨fun ws => ⟨decode_commandWord (op := .sysSelimpl) (flag := false) rfl ws,
    decode_words_flag_not_taken .sysSelimpl rfl rfl ws⟩, fun s => ⟨fun hsel => ?_, fun hsel => ?_, fun ws hws => ?_⟩⟩
  · rw [exec_sysSelimpl_of_not_selDone hsel, State.respond, statusWord_selected rfl]
  · rw [exec_sysSelimpl_of_selDone hsel, State.respond, statusWord_selected hsel]
  · rw [exec_sysSelimpl_surplus hws, State.reject, State.respond, statusWord_no_cf]
    rfl

/-! ### The selection is permanent (R141) -/

/-- Every step goes on and takes the oldest input, if there is one (R38). -/
theorem exists_step_inputs_tail (s : State) : ∃ t, step s = .next t ∧ t.inputs = s.inputs.tail := by
  rcases hin : s.inputs with _ | ⟨_ | _, rest⟩
  case nil => exact ⟨s, step_of_idle hin, hin⟩
  case cons.command f => exact ⟨_, step_eq_answerAlone hin, rfl⟩
  case cons.reset => exact ⟨_, step_of_reset hin, rfl⟩

theorem cfgAfter_of_selDone {c : Cfg} (h : c.selDone = true) (op : Op) : cfgAfter op c = c := if_neg (by simp [h])

/-- Once `SEL_DONE` is set, a step that is not the reset input keeps `CFG`. -/
theorem step_cfg_of_selDone {s t : State} (hsel : s.cfg.selDone = true) (hreset : .reset ∉ s.inputs)
    (h : step s = .next t) : t.cfg = s.cfg := by
  obtain hcfg | ⟨rest, hin, -⟩ | ⟨f, rest, i, -, -, -, hcfg⟩ := step_cfg_cases h
  · exact hcfg
  · exact absurd (hin ▸ List.mem_cons_self) hreset
  · exact hcfg.trans (cfgAfter_of_selDone hsel i.op)

theorem run_cfg_of_selDone (n : Nat) {s t : State} (hsel : s.cfg.selDone = true) (hreset : .reset ∉ s.inputs)
    (h : Host.Core.run Sys2Proof.core n s = .next t) : t.cfg = s.cfg := by
  induction n generalizing s with
  | zero =>
    injection h with h
    rw [h]
  | succ n ih =>
    obtain ⟨u, hu, hin⟩ := exists_step_inputs_tail s
    have hcfg : u.cfg = s.cfg := step_cfg_of_selDone hsel hreset hu
    have hresetu : .reset ∉ u.inputs := fun hmem => hreset (List.mem_of_mem_tail (hin ▸ hmem))
    rw [run_succ_of_step hu] at h
    exact (ih (hcfg ▸ hsel) hresetu h).trans hcfg

/-- Settles O23: by induction on the length of the run, as a step keeps `CFG` and leaves a channel without the reset
input. -/
theorem selectionIsPermanentUntilReset : Obligations.SelectionIsPermanentUntilReset := by
  unfold Obligations.SelectionIsPermanentUntilReset
  exact ⟨fun n s t => run_cfg_of_selDone n, fun s => exec_sysSelimpl_of_selDone⟩

end Sys2Proof.Machine
end

section
/-! PROOFS. The families 60_exceptions.md and 70_reset_and_hazards.md: the two frame errors, each answered by one word
and otherwise without effect, and what follows for the commands after them; the idle step, the reset input, runs of any
length and the latency. -/

namespace Sys2Proof.Machine

/-! ### The two frame errors (R146, R147) -/

/-- The state after a frame error, field by field, with the status word as a number (R45, R151). -/
theorem reject_withInputs_eq (s : State) (rest : List Input) (st : Status) :
    (s.withInputs rest).reject st =
      { cfg := s.cfg, inputs := rest,
        responses := s.responses ++
          [{ sw := BitVec.ofNat 64 (st.code + s.cfg.implSel.toNat * 2 ^ 9 + s.cfg.selDone.toNat * 2 ^ 10),
             results := [] }] } := by
  rw [State.reject, State.respond, statusWord_no_cf]
  rfl

theorem step_of_illegalWord {s : State} {f : CommandFrame} {rest : List Input} (hin : s.inputs = .command f :: rest)
    (hill : IllegalWord f.cw) : step s = .next ((s.withInputs rest).reject .illegal) := by
  obtain ⟨e, hd⟩ := exists_reject_of_illegal hill
  exact step_of_illegal hin hd

theorem step_of_wrongLength {s : State} {f : CommandFrame} {rest : List Input} (hin : s.inputs = .command f :: rest)
    (hleg : ¬ IllegalWord f.cw) (hlen : f.payload.length ≠ (frameWords (f.cw.toNat % 2 ^ 8)).1) :
    step s = .next ((s.withInputs rest).reject .badLen) := by
  obtain ⟨i, hd⟩ := (exists_decode_ok_iff f).mpr hleg
  have hw : i.wellFormed = false := Bool.eq_false_iff.mpr fun hw => hlen ((wellFormedIffOperandCount f i hd).mp hw)
  rw [step_of_command hin hd, exec_of_not_wellFormed hw]

/-- Settles O9: the decoder rejects the word, and no word can be read from an empty byte image. -/
theorem illegalWordIsAnsweredIllegal : Obligations.IllegalWordIsAnsweredIllegal := by
  unfold Obligations.IllegalWordIsAnsweredIllegal
  refine ⟨fun s f rest hin hill => ?_, rfl⟩
  rw [step_of_illegalWord hin hill, reject_withInputs_eq, Status.code]

/-- Settles O10: the frame is decoded to a command that is not well-formed. -/
theorem wrongLengthIsAnsweredBadLen : Obligations.WrongLengthIsAnsweredBadLen := by
  unfold Obligations.WrongLengthIsAnsweredBadLen
  intro s f rest hin hleg hlen
  rw [step_of_wrongLength hin hleg hlen, reject_withInputs_eq, Status.code]

/-! ### Errors leave no trace (R152) -/

/-- An errored frame is rejected with a status that is fixed before the state is. -/
theorem exists_reject_of_errored {f : CommandFrame}
    (herr : IllegalWord f.cw ∨ f.payload.length ≠ (frameWords (f.cw.toNat % 2 ^ 8)).1) :
    ∃ st, ∀ (s : State) (rest : List Input), s.inputs = .command f :: rest →
      step s = .next ((s.withInputs rest).reject st) := by
  by_cases hill : IllegalWord f.cw
  · exact ⟨.illegal, fun s rest hin => step_of_illegalWord hin hill⟩
  · exact ⟨.badLen, fun s rest hin => step_of_wrongLength hin hill (herr.resolve_left hill)⟩

/-- Whatever follows an errored frame is served as if that frame had not been sent. -/
theorem exists_serve_cons_of_errored {f : CommandFrame}
    (herr : IllegalWord f.cw ∨ f.payload.length ≠ (frameWords (f.cw.toNat % 2 ^ 8)).1) (c : Cfg)
    (fs : List CommandFrame) : ∃ e, serve c (f :: fs) = ((serve c fs).1, e :: (serve c fs).2) := by
  obtain ⟨st, hstep⟩ := exists_reject_of_errored herr
  have halone : answerAlone c f = (c, [⟨statusWord st false c, []⟩]) := by
    rw [answerAlone, hstep _ [] rfl]
    rfl
  exact ⟨_, by rw [serve, halone]; rfl⟩

/-- Settles O16: the batch `[f, g]` is served as `[g]` is, but for the answer to `f` in front. -/
theorem errorsLeaveNoTrace : Obligations.ErrorsLeaveNoTrace := by
  unfold Obligations.ErrorsLeaveNoTrace
  intro s t u f g rest herr ht hu
  obtain ⟨e, he⟩ := exists_serve_cons_of_errored herr s.cfg [g]
  obtain ⟨r, hr⟩ := List.length_eq_one_iff.mp (serve_length s.cfg [g])
  have hrunf := run_sent_eq_serve s [f, g] rest
  have hrung := run_sent_eq_serve s [g] rest
  rw [he, hr] at hrunf
  rw [hr] at hrung
  injection ht.symm.trans hrunf with ht
  injection hu.symm.trans hrung with hu
  subst ht hu
  exact ⟨rfl, rfl, e, r, rfl, rfl⟩

/-! ### The idle step and the reset input (R156, R159, R160) -/

/-- Settles O8: with nothing sent the step is the identity. -/
theorem idleKeepsEverything : Obligations.IdleKeepsEverything := by
  unfold Obligations.IdleKeepsEverything
  exact fun s => step_of_idle

/-- Settles O12: the input is taken and `CFG` set to (0, 0), and no other field is touched. -/
theorem resetInputRestoresCfg : Obligations.ResetInputRestoresCfg := by
  unfold Obligations.ResetInputRestoresCfg
  exact fun s rest => step_of_reset

/-! ### Runs of any length (R151, R171) -/

theorem State.Inv.safeRun {s : State} (h : s.Inv) : s.SafeRun := by
  intro n
  induction n generalizing s with
  | zero => exact ⟨s, rfl, h⟩
  | succ n ih =>
    obtain ⟨t, ht, hinv⟩ := h.exists_step
    rw [run_succ_of_step ht]
    exact ih hinv

/-- Settles O20: a step from a state of the invariant goes on and stays in it, so by induction a run does. -/
theorem everyRunIsSafe : Obligations.EveryRunIsSafe := by
  unfold Obligations.EveryRunIsSafe
  exact fun s => State.Inv.safeRun

/-! ### The latency (R7, R172) -/

/-- Settles O24: `LAT` has the opcode and `CFG.IMPL_SEL` as its only arguments. -/
theorem latencyIsPublic : Obligations.LatencyIsPublic := by
  unfold Obligations.LatencyIsPublic
  intro i j s t hop himpl
  rw [latency, latency, hop, himpl]

end Sys2Proof.Machine
end
